-- ==== Sys2Proof/Word.lean ====
section
/-! DEFINITION. The data the core moves: bytes, words, blocks, half blocks and the key-derived tables
(`spec/00_scope.md` R8; `spec/10_state.md` R30, R37, R38). -/

namespace Sys2Proof

/-- An unsigned 8-bit value (R8). -/
abbrev Byte := BitVec 8

/-- An unsigned 32-bit value (R8). -/
abbrev Word := BitVec 32

/-- A block: 16 bytes, index 0 first (R8). -/
abbrev Block := Vector Byte 16

/-- One half of a block in the Feistel datapath: 8 bytes (R193). -/
abbrev Half := Vector Byte 8

/-- The S-box file: four tables of 256 bytes (R37). -/
abbrev SBoxes := Vector (Vector Byte 256) 4

/-- The subkey file: 40 words (R38). -/
abbrev Subkeys := Vector Word 40

/-- The 4×4 matrix of the diffusion unit, indexed by row and then column (R5, R172). -/
abbrev MdsMatrix := Vector (Vector Byte 4) 4

/-- `0^16` (R8). -/
def zeroBlock : Block := Vector.replicate 16 0#8

end Sys2Proof
end

