-- ==== Sys2Proof/Config.lean ====
section
/-! DEFINITION. What an implementation fixes (`spec/00_scope.md` R5, R6) and the free values of the model
(`spec/40_command_cycle.md` R136; `spec/93_implementation_defined.md` I4, I8). -/

namespace Sys2Proof

/-- The two readings of the S-box term of the round function (R5, R191, `90_conflicts.md` C4). -/
inductive FSboxMode where
  | lookup
  | zero
  deriving DecidableEq, Repr

/-- The three implementation parameters of R5. They are constants of the silicon that software reads through
`CAP` and `MDSM0..3` (R55, R56). `State` carries them, no step changes them, and a claim about every state is a
claim about every choice of them. -/
structure Params where
  /-- `HAS_MDS`: the diffusion unit is present. -/
  hasMds : Bool
  /-- `MDS_M`: the matrix. -/
  mdsM : MdsMatrix
  /-- `F_SBOX_MODE`. -/
  sboxMode : FSboxMode
  deriving DecidableEq, Repr

/-- FREE VALUE (log entry 2): the sixteen constants of the matrix, to which no source gives a value
(R173, I8). It has no body, so nothing can be proved of it. -/
opaque Config.mdsMatrix : MdsMatrix

/-- FREE VALUE (log entry 3): the values that reads of a busy core return, a fresh one for each read
(R136, I4). The model counts the draws in `State.draws`. -/
opaque Config.draw : Nat → Word

/-- `KS_DELTA` (R6, R153). -/
def Config.ksDelta : Nat := 0x9E3779B9

/-- `GF_REDUCE` (R6, R170). -/
def Config.gfReduce : Byte := 0x1B#8

/-- `ROUNDS` (R6). -/
def Config.rounds : Nat := 16

/-- `NSK` (R6). -/
def Config.nsk : Nat := 40

/-- `BLOCK` (R6). -/
def Config.block : Nat := 16

/-- The offset of the input whitening (R6). -/
def Config.whitenIn : Nat := 0

/-- The offset of the output whitening (R6). -/
def Config.whitenOut : Nat := 4

/-- The parameters of the machine that `State.reset` describes: `HAS_MDS` and `F_SBOX_MODE` at the defaults
of R5, `MDS_M` free. -/
def Config.params : Params := ⟨true, Config.mdsMatrix, .lookup⟩

end Sys2Proof
end

