-- ==== Sys2Proof/Machine/State.lean ====
section
/-! DEFINITION. The state of the core (`spec/10_state.md`), its reset value (R60), and the reasons a step can
stop. -/

namespace Sys2Proof.Machine

/-- Why a step ends in a fault. -/
inductive Fault where
  /-- Raised by a host access that is not 32 bits wide or not at a multiple of 4 (R72, R73, R305). Safe: a real
  interconnect might go on where the model stops, so nothing false can be proved of a run past it. -/
  | busError (addr : BitVec 12) (size : Nat)
  deriving DecidableEq, Repr

/-- Why a step is refused. -/
inductive Refusal where
  /-- Raised by `exec`'s arm of a command that has no meaning in the model; no arm raises it. Safe: the model
  stops. -/
  | notModelled (mnemonic : String)
  deriving DecidableEq, Repr

/-- `STATUS.MSTATE`, the message state; the encoding 3 is never produced (R44, R50). -/
inductive MState where
  | idle
  | enc
  | dec
  deriving DecidableEq, Repr

/-- The errors a command can end with, codes 1..7 of R300. -/
inductive CmdError where
  | illegalCmd
  | badOperand
  | badSequence
  | notReady
  | invalidIvLength
  | invalidCiphertext
  | paddingAmbiguity
  deriving DecidableEq, Repr

/-- The outcome of a command: `Ok(n)`, with `n` valid result bytes, or `Err(code)` (R10, R57). -/
inductive CmdOutcome where
  | ok (n : Fin 17)
  | err (c : CmdError)
  deriving DecidableEq, Repr

/-- One entry `(register, value)` of a command's write list (R57). A field of `STATUS` is its own entry. -/
inductive RegWrite where
  | dout (b : Block)
  | key (b : Block)
  | iv (b : Block)
  | chain (b : Block)
  | sbox (t : SBoxes)
  | sk (t : Subkeys)
  | keyValid (v : Bool)
  | ivValid (v : Bool)
  | mstate (m : MState)
  | mpad (v : Bool)
  | mmds (v : Bool)
  deriving DecidableEq, Repr

/-- The record of a command in flight, which is also what the body of a command answers (R57, R131). Its
`writeset` is `Pending.writeset` of `Machine/Ops.lean`, a function of the write list. -/
structure Pending where
  outcome : CmdOutcome
  writes : List RegWrite
  deriving DecidableEq, Repr

/-- One thing that may happen to the core next (R130): a host bus access of `size` bytes, a turn of the core
itself, or the reset input. -/
inductive Input where
  | read (addr : BitVec 12) (size : Nat)
  | write (addr : BitVec 12) (size : Nat) (v : Word)
  /-- The core's turn: its completion step if a command is in flight, nothing otherwise (R132). -/
  | tick
  /-- `rst_n` is asserted (R340). -/
  | rstN
  deriving DecidableEq, Repr

/-- The state: what R30 lists, and the model's own `inputs`, `readLog` and `draws`. `BUSY` is not stored:
it is 1 exactly while `pending` holds a command (R44, R45). -/
structure State where
  /-- `DIN` (R32). -/
  din : Block
  /-- `DOUT` (R33). -/
  dout : Block
  /-- `KEY` (R34). -/
  key : Block
  /-- `IV` (R35). -/
  iv : Block
  /-- `CHAIN` (R36). -/
  chain : Block
  /-- `S` (R37). -/
  sbox : SBoxes
  /-- `SK` (R38). -/
  sk : Subkeys
  /-- `CTRL.IRQ_EN` (R40). -/
  irqEn : Bool
  /-- `CTRL.PADMODE`: true is `ALWAYS`, false is `REFERENCE` (R40, R41). -/
  padAlways : Bool
  /-- The stored bit of `CTRL.USE_MDS`; `State.ctrlUseMds` is what it reads as (R40, R42). -/
  useMds : Bool
  /-- `CTRL.DIAG` (R40). -/
  diag : Bool
  /-- `STATUS.DONE` (R46). -/
  done : Bool
  /-- `STATUS.OVF` (R47). -/
  ovf : Bool
  /-- `STATUS.KEY_VALID` (R48). -/
  keyValid : Bool
  /-- `STATUS.IV_VALID` (R49). -/
  ivValid : Bool
  /-- `STATUS.MSTATE` (R50). -/
  mstate : MState
  /-- `STATUS.ERRCODE`; `none` is `OK`, code 0 (R51, R300). -/
  errcode : Option CmdError
  /-- `STATUS.OUTLEN`, 0..16 (R44, R52). -/
  outlen : Fin 17
  /-- `STATUS.MPAD` (R53). -/
  mpad : Bool
  /-- `STATUS.MMDS` (R53). -/
  mmds : Bool
  /-- `PENDING` (R57). -/
  pending : Option Pending
  /-- The constants that `CAP` and `MDSM` show (R5, R55, R56). No step changes them. -/
  params : Params
  /-- The model's own: what happens next, in order (log entry 4). -/
  inputs : List Input
  /-- The model's own: the values the host's reads returned, oldest first (R362). -/
  readLog : List Word
  /-- The model's own: how many draws the reads of a busy core have taken (R136, log entry 3). -/
  draws : Nat
  deriving DecidableEq, Repr

/-- The machine right after reset (R60). The spec leaves `S` and `SK` unspecified; zero is the model's choice
(log entry 1). -/
def State.reset : State where
  din := zeroBlock
  dout := zeroBlock
  key := zeroBlock
  iv := zeroBlock
  chain := zeroBlock
  sbox := Vector.replicate 4 (Vector.replicate 256 0#8)
  sk := Vector.replicate 40 0#32
  irqEn := false
  padAlways := true
  useMds := false
  diag := false
  done := false
  ovf := false
  keyValid := false
  ivValid := false
  mstate := .idle
  errcode := none
  outlen := 0
  mpad := false
  mmds := false
  pending := none
  params := Config.params
  inputs := []
  readLog := []
  draws := 0

end Sys2Proof.Machine
end

