-- ==== Sys2Proof/Machine/Operands.lean ====
section
/-! DEFINITION. The operand forms: byte lanes, parts of a block, and the operand ranges
(`spec/00_scope.md` R8, R9, R11; `spec/30_encoding.md` R102, R107; `spec/20_memory.md` R85). -/

namespace Sys2Proof.Machine

/-- `v[k]` of a byte sequence. The rules index within the sequence only; past its end the model reads 0. -/
def byteAt {n : Nat} (v : Vector Byte n) (k : Nat) : Byte := if h : k < n then v[k] else 0#8

/-- `SK[i]`. R107 keeps every command within `SK[0..39]`; past its end the model reads 0. -/
def subkeyAt (sk : Subkeys) (i : Nat) : Word := if h : i < 40 then sk[i] else 0#32

/-- `S[j][r]` (R37). -/
def sboxAt (t : SBoxes) (j : Fin 4) (r : Byte) : Byte := t[j][r.toFin]

/-- `A ^ B` on blocks (R9). -/
def xorBlock (a b : Block) : Block := Vector.ofFn fun k => a[k] ^^^ b[k]

/-- `A ^ B` on half blocks (R9). -/
def xorHalf (a b : Half) : Half := Vector.ofFn fun k => a[k] ^^^ b[k]

/-- `B[0..7]` (R8). -/
def leftHalf (b : Block) : Half := Vector.ofFn fun k => byteAt b k.val

/-- `B[8..15]` (R8). -/
def rightHalf (b : Block) : Half := Vector.ofFn fun k => byteAt b (8 + k.val)

/-- `L || R` (R8). -/
def joinHalves (l r : Half) : Block :=
  Vector.ofFn fun k => if k.val < 8 then byteAt l k.val else byteAt r (k.val - 8)

/-- The first `n` bytes of a block, the others 0 (R150, R234). -/
def keepBytes (b : Block) (n : Nat) : Block := Vector.ofFn fun k => if k.val < n then b[k] else 0#8

/-- Four bytes as a word, the first in the lowest lane (R11, R85). -/
def wordOfBytes (b0 b1 b2 b3 : Byte) : Word := b3 ++ b2 ++ b1 ++ b0

/-- Byte lane `m` of a word: bits `[8m+7 : 8m]` (R11). -/
def lane (w : Word) (m : Nat) : Byte := w.extractLsb' (8 * m) 8

/-- Register word `n` of a block register (R11, R85). -/
def blockWord (b : Block) (n : Fin 4) : Word :=
  wordOfBytes (byteAt b (4 * n.val)) (byteAt b (4 * n.val + 1)) (byteAt b (4 * n.val + 2)) (byteAt b (4 * n.val + 3))

/-- A block register after a write of word `n` (R11, R32, R83). -/
def setBlockWord (b : Block) (n : Fin 4) (v : Word) : Block :=
  Vector.ofFn fun k => if k.val / 4 = n.val then lane v (k.val % 4) else b[k]

/-- The static operand range of `ENC_FINAL` (R107). -/
def encFinalLenOk (len : Nat) : Bool := decide (len ≤ 16)

/-- The static operand range of `WHITEN` (R107). -/
def whitenIdxOk (idx : Nat) : Bool := decide (idx ≤ 24)

/-- The static operand range of `FFUNC` (R107). -/
def ffuncIdxOk (idx : Nat) : Bool := decide (idx ≤ 39)

end Sys2Proof.Machine
end

