-- ==== Sys2Proof/Machine/Flags.lean ====
section
/-! DEFINITION. The control and status registers: their words, their writes and the interrupt line
(`spec/10_state.md` R40–R59; `spec/40_command_cycle.md` R136; `spec/60_exceptions.md` R300, R310). -/

namespace Sys2Proof.Machine

/-- `STATUS.BUSY`: a command is in flight (R44, R45). -/
def State.busy (s : State) : Bool := s.pending.isSome

/-- `CTRL.USE_MDS` as it reads: 0 where the diffusion unit is absent (R40, R176). -/
def State.ctrlUseMds (s : State) : Bool := s.params.hasMds && s.useMds

/-- The output `irq = CTRL.IRQ_EN & STATUS.DONE` (R58, R310). -/
def State.irq (s : State) : Bool := s.irqEn && s.done

/-- A one-bit field. -/
def bit (v : Bool) : BitVec 1 := BitVec.ofBool v

/-- The encoding of `STATUS.MSTATE` (R44). -/
def mstateBits : MState → BitVec 2
  | .idle => 0#2
  | .enc => 1#2
  | .dec => 2#2

/-- The encoding of `STATUS.ERRCODE` (R300). -/
def errcodeBits : Option CmdError → BitVec 4
  | none => 0#4
  | some .illegalCmd => 1#4
  | some .badOperand => 2#4
  | some .badSequence => 3#4
  | some .notReady => 4#4
  | some .invalidIvLength => 5#4
  | some .invalidCiphertext => 6#4
  | some .paddingAmbiguity => 7#4

/-- The word of `STATUS` made of its fields, high bits first; reserved bits are 0 (R44). -/
def packStatus (mmds mpad : BitVec 1) (outlen : BitVec 5) (errcode : BitVec 4) (mstate : BitVec 2)
    (ivValid keyValid ovf done busy : BitVec 1) : Word :=
  0#9 ++ mmds ++ mpad ++ outlen ++ 0#4 ++ errcode ++ 0#1 ++ mstate ++ ivValid ++ keyValid ++ ovf ++ done ++ busy

/-- `STATUS` as a core that is not busy shows it (R44). -/
def State.statusWord (s : State) : Word :=
  packStatus (bit s.mmds) (bit s.mpad) (BitVec.ofNat 5 s.outlen.val) (errcodeBits s.errcode) (mstateBits s.mstate)
    (bit s.ivValid) (bit s.keyValid) (bit s.ovf) (bit s.done) (bit s.busy)

/-- `STATUS` as a busy core shows it: `BUSY = 1`, `DONE = 0`, the true `OVF`, and every other field taken from
the draw `d`; reserved bits are 0 (R44, R75, R136, log entry 5). -/
def State.busyStatusWord (s : State) (d : Word) : Word :=
  packStatus (d.extractLsb' 22 1) (d.extractLsb' 21 1) (d.extractLsb' 16 5) (d.extractLsb' 8 4) (d.extractLsb' 5 2)
    (d.extractLsb' 4 1) (d.extractLsb' 3 1) (bit s.ovf) 0#1 1#1

/-- A host write to `STATUS`: bit 1 clears `DONE` and bit 2 clears `OVF` (R44). -/
def State.writeStatus (v : Word) (s : State) : State :=
  { s with done := s.done && !v.getLsbD 1, ovf := s.ovf && !v.getLsbD 2 }

/-- `CTRL` as it reads; reserved bits are 0 (R40). -/
def State.ctrlWord (s : State) : Word :=
  0#28 ++ bit s.diag ++ bit s.ctrlUseMds ++ bit s.padAlways ++ bit s.irqEn

/-- A host write to `CTRL`: the four fields, `USE_MDS` only where the diffusion unit is present (R40). -/
def State.writeCtrl (v : Word) (s : State) : State :=
  { s with irqEn := v.getLsbD 0, padAlways := v.getLsbD 1, useMds := s.params.hasMds && v.getLsbD 2, diag := v.getLsbD 3 }

/-- `CAP` (R55). -/
def State.capWord (s : State) : Word :=
  BitVec.ofNat 8 Config.block ++ BitVec.ofNat 8 Config.rounds ++ BitVec.ofNat 8 Config.nsk ++ 0#6
    ++ bit (decide (s.params.sboxMode = .zero)) ++ bit s.params.hasMds

/-- `MDSMi`: row `i` of the matrix, column `j` in lane `j`; 0 where the unit is absent (R56). -/
def State.mdsmWord (s : State) (i : Fin 4) : Word :=
  if s.params.hasMds then
    wordOfBytes s.params.mdsM[i][0] s.params.mdsM[i][1] s.params.mdsM[i][2] s.params.mdsM[i][3]
  else 0#32

end Sys2Proof.Machine
end

