-- ==== Sys2Proof/Machine/Ops.lean ====
section
/-! DEFINITION. The command cycle that every command goes through: issue, completion, the error outcome, the
dropped command and reset (`spec/40_command_cycle.md` R130–R142; `spec/60_exceptions.md` R300–R307;
`spec/70_reset_and_hazards.md` R340).

The core has no trap mechanism (R306): no exception entry, no saved register, no vector and no return. What the spec
describes in its place is the error outcome (R133), and `State.finish` is the one operation that takes it. -/

namespace Sys2Proof.Machine

/-- The command ends with `Ok(n)` and this write list (R10). -/
def okResult (n : Fin 17) (writes : List RegWrite) : Pending := ⟨.ok n, writes⟩

/-- The command ends with `Err(c)` and only the extra writes that its rule names (R10, R133). -/
def errResult (c : CmdError) (writes : List RegWrite) : Pending := ⟨.err c, writes⟩

/-- `require MSTATE in X` (R139). -/
def requireMstate (s : State) (allowed : List MState) (body : Pending) : Pending :=
  if s.mstate ∈ allowed then body else errResult .badSequence []

/-- `require KEY_VALID` (R140). -/
def requireKey (s : State) (body : Pending) : Pending := if s.keyValid then body else errResult .notReady []

/-- `require IV_VALID` (R140). -/
def requireIv (s : State) (body : Pending) : Pending := if s.ivValid then body else errResult .notReady []

/-- The static range check of `Execute`, before any check of the state (R107, R131). -/
def requireRange (inRange : Bool) (body : Pending) : Pending := if inRange then body else errResult .badOperand []

/-- The words of the diffusion unit are illegal where it is absent (R104, R106). -/
def requireMdsUnit (s : State) (body : Pending) : Pending := if s.params.hasMds then body else errResult .illegalCmd []

/-- `register <- value` (R132). -/
def State.applyWrite (s : State) : RegWrite → State
  | .dout b => { s with dout := b }
  | .key b => { s with key := b }
  | .iv b => { s with iv := b }
  | .chain b => { s with chain := b }
  | .sbox t => { s with sbox := t }
  | .sk t => { s with sk := t }
  | .keyValid v => { s with keyValid := v }
  | .ivValid v => { s with ivValid := v }
  | .mstate m => { s with mstate := m }
  | .mpad v => { s with mpad := v }
  | .mmds v => { s with mmds := v }

/-- The writes of a command, in order (R132). -/
def State.applyWrites (s : State) (writes : List RegWrite) : State := writes.foldl State.applyWrite s

/-- The outcome of a command as it is recorded: `ERRCODE` and `OUTLEN`, and `DOUT <- 0^16` on an error; `DONE`
is set and the core is free again (R132, R133). -/
def State.finish (s : State) : CmdOutcome → State
  | .ok n => { s with errcode := none, outlen := n, done := true, pending := none }
  | .err c => { s with dout := zeroBlock, errcode := some c, outlen := 0, done := true, pending := none }

/-- The core's turn: the completion step where a command is in flight; where none is, it is not enabled and
nothing changes (R130, R132). -/
def State.complete (s : State) : State :=
  match s.pending with
  | none => s
  | some p => (s.applyWrites p.writes).finish p.outcome

/-- The issue of a command whose `Execute` answered `p` (R131). -/
def State.issued (s : State) (p : Pending) : State := { s with pending := some p, done := false }

/-- The command word is dropped (R134). -/
def State.dropped (s : State) : State := { s with ovf := true }

/-- A command word other than `RESET` is written to `CMD`: it is issued where the core is free and dropped where it
is busy (R131, R134). -/
def submit (s : State) (p : Pending) : Host.Outcome State Fault Refusal :=
  if s.busy then .next s.dropped else .next (s.issued p)

/-- Reset: every state element takes its reset value and the command in flight is discarded. The silicon's
constants, and the model's own fields, which stand for the host's side, stay (R60, R138, R340). -/
def State.performReset (s : State) : State :=
  { State.reset with params := s.params, inputs := s.inputs, readLog := s.readLog, draws := s.draws }

/-- The registers of the window, as the write set of a command names them (R57, R136). -/
inductive Reg where
  | cap
  | ctrl
  | status
  | cmd
  | din
  | dout
  | iv
  | chain
  | key
  | mdsm
  | sk
  | sbox
  deriving DecidableEq, Repr

/-- The register that a write list entry writes (R57). -/
def RegWrite.reg : RegWrite → Reg
  | .dout _ => .dout
  | .key _ => .key
  | .iv _ => .iv
  | .chain _ => .chain
  | .sbox _ => .sbox
  | .sk _ => .sk
  | .keyValid _ => .status
  | .ivValid _ => .status
  | .mstate _ => .status
  | .mpad _ => .status
  | .mmds _ => .status

/-- `writeset = (the registers of the write list) ∪ (DOUT, STATUS)` (R131). -/
def Pending.writeset (p : Pending) : List Reg := .dout :: .status :: p.writes.map RegWrite.reg

/-- The register is in `PENDING.writeset` (R136). -/
def State.inFlight (s : State) (r : Reg) : Bool :=
  match s.pending with
  | none => false
  | some p => decide (r ∈ p.writeset)

end Sys2Proof.Machine
end

