-- ==== Sys2Proof/Machine/Bus.lean ====
section
/-! DEFINITION. The register window: the map, the reads and the writes other than a write to `CMD`
(`spec/20_memory.md` R70–R89; `spec/40_command_cycle.md` R136). -/

namespace Sys2Proof.Machine

/-- What an aligned address of the window names (R71, R74). -/
inductive WindowReg where
  | cap
  | ctrl
  | status
  | cmd
  | din (n : Fin 4)
  | dout (n : Fin 4)
  | iv (n : Fin 4)
  | chain (n : Fin 4)
  | key (n : Fin 4)
  | mdsm (n : Fin 4)
  | subkey (i : Fin 40)
  | sbox (w : Fin 256)
  | reserved
  deriving DecidableEq, Repr

/-- The register map (R71). -/
def decodeAddr (addr : BitVec 12) : WindowReg :=
  let a := addr.toNat
  if a < 0x004 then .cap
  else if a < 0x008 then .ctrl
  else if a < 0x00C then .status
  else if a < 0x010 then .cmd
  else if a < 0x020 then .din (Fin.ofNat 4 ((a - 0x010) / 4))
  else if a < 0x030 then .dout (Fin.ofNat 4 ((a - 0x020) / 4))
  else if a < 0x040 then .iv (Fin.ofNat 4 ((a - 0x030) / 4))
  else if a < 0x050 then .chain (Fin.ofNat 4 ((a - 0x040) / 4))
  else if a < 0x060 then .key (Fin.ofNat 4 ((a - 0x050) / 4))
  else if a < 0x070 then .mdsm (Fin.ofNat 4 ((a - 0x060) / 4))
  else if a < 0x100 then .reserved
  else if a < 0x1A0 then .subkey (Fin.ofNat 40 ((a - 0x100) / 4))
  else if a < 0x400 then .reserved
  else if a < 0x800 then .sbox (Fin.ofNat 256 ((a - 0x400) / 4))
  else .reserved

/-- The access is a bus error: not 32 bits wide, or not at a multiple of 4 (R72). -/
def badAccess (addr : BitVec 12) (size : Nat) : Bool := decide (size ≠ 4) || decide (addr.toNat % 4 ≠ 0)

/-- The register whose presence in the write set makes a read a draw (R136). -/
def WindowReg.reg : WindowReg → Option Reg
  | .cap => some .cap
  | .ctrl => some .ctrl
  | .status => some .status
  | .cmd => some .cmd
  | .din _ => some .din
  | .dout _ => some .dout
  | .iv _ => some .iv
  | .chain _ => some .chain
  | .key _ => some .key
  | .mdsm _ => some .mdsm
  | .subkey _ => some .sk
  | .sbox _ => some .sbox
  | .reserved => none

/-- Word `w` of the `SBOX` window: `S[w div 64][4 (w mod 64) + m]` in lane `m` (R80). -/
def sboxWord (t : SBoxes) (w : Fin 256) : Word :=
  let j := Fin.ofNat 4 (w.val / 64)
  let i := 4 * (w.val % 64)
  wordOfBytes (sboxAt t j (BitVec.ofNat 8 i)) (sboxAt t j (BitVec.ofNat 8 (i + 1)))
    (sboxAt t j (BitVec.ofNat 8 (i + 2))) (sboxAt t j (BitVec.ofNat 8 (i + 3)))

/-- The value a register of the window holds, the gates of R82 applied (R71, R74, R75, R78–R82). -/
def State.windowValue (s : State) : WindowReg → Word
  | .cap => s.capWord
  | .ctrl => s.ctrlWord
  | .status => s.statusWord
  | .cmd => 0#32
  | .din n => blockWord s.din n
  | .dout n => blockWord s.dout n
  | .iv n => blockWord s.iv n
  | .chain n => blockWord s.chain n
  | .key n => if s.diag then blockWord s.key n else 0#32
  | .mdsm n => s.mdsmWord n
  | .subkey i => if s.diag && s.keyValid then s.sk[i] else 0#32
  | .sbox w => if s.diag && s.keyValid then sboxWord s.sbox w else 0#32
  | .reserved => 0#32

/-- The read takes a draw: the core is busy and the register is in the write set (R136). -/
def State.readsDraw (s : State) (t : WindowReg) : Bool :=
  match t.reg with
  | none => false
  | some r => s.inFlight r

/-- The value a host read returns: the held value, or, where R136 makes it unspecified, a draw, `STATUS` keeping
`BUSY`, `DONE` and `OVF` (R76, R136). -/
def State.readValue (s : State) (t : WindowReg) : Word :=
  if s.readsDraw t then
    match t with
    | .status => s.busyStatusWord (Config.draw s.draws)
    | _ => Config.draw s.draws
  else s.windowValue t

/-- A host read: no side effect on the core (R76). The model records the value returned and the draw taken. -/
def State.hostRead (s : State) (t : WindowReg) : State :=
  { s with readLog := s.readLog ++ [s.readValue t], draws := if s.readsDraw t then s.draws + 1 else s.draws }

/-- A host write to a register other than `CMD`; a read-only register and a reserved address ignore it
(R32, R74, R75, R77). -/
def State.writeWindow (s : State) (t : WindowReg) (v : Word) : State :=
  match t with
  | .ctrl => s.writeCtrl v
  | .status => s.writeStatus v
  | .din n => { s with din := setBlockWord s.din n v }
  | .cap => s
  | .cmd => s
  | .dout _ => s
  | .iv _ => s
  | .chain _ => s
  | .key _ => s
  | .mdsm _ => s
  | .subkey _ => s
  | .sbox _ => s
  | .reserved => s

end Sys2Proof.Machine
end

