-- ==== Sys2Proof/Syntax.lean ====
section
/-! DEFINITION. The commands of TFC-1, one constructor per row of the opcode table
(`spec/30_encoding.md` R104, R105). -/

namespace Sys2Proof

/-- A command. `len` and `idx` are the unsigned counts of R103; `Instr.wellFormed` says which of their values
a command word can carry. -/
inductive Instr where
  | nop
  | reset
  | keyLoad (len : Nat)
  | ivLoad (len : Nat)
  | chainLoad
  | encStart
  | encBlock
  | encFinal (len : Nat)
  | decStart
  | decBlock
  | decFinal (len : Nat)
  | abort
  | whiten (idx : Nat)
  | ffunc (idx : Nat)
  | feistelFwd
  | feistelInv
  | gfMul
  | mdsMul
  deriving DecidableEq, Repr

/-- The mnemonic of a command (R104, R109). -/
def Instr.mnemonic : Instr → String
  | .nop => "NOP"
  | .reset => "RESET"
  | .keyLoad _ => "KEY_LOAD"
  | .ivLoad _ => "IV_LOAD"
  | .chainLoad => "CHAIN_LOAD"
  | .encStart => "ENC_START"
  | .encBlock => "ENC_BLOCK"
  | .encFinal _ => "ENC_FINAL"
  | .decStart => "DEC_START"
  | .decBlock => "DEC_BLOCK"
  | .decFinal _ => "DEC_FINAL"
  | .abort => "ABORT"
  | .whiten _ => "WHITEN"
  | .ffunc _ => "FFUNC"
  | .feistelFwd => "FEISTEL_FWD"
  | .feistelInv => "FEISTEL_INV"
  | .gfMul => "GF_MUL"
  | .mdsMul => "MDS_MUL"

end Sys2Proof
end

