-- ==== Sys2Proof/WellFormed.lean ====
section
/-! DEFINITION. Which commands a command word can carry: the operand check of the assembler
(`spec/30_encoding.md` R101, R103, R109). The core's own range check (R107) is not this one: a word whose operand
breaks R107 is a well-formed command that completes with `BAD_OPERAND`. -/

namespace Sys2Proof

/-- `LEN` fits its five bits: 0..31 (R101, R109). -/
def lenFits (len : Nat) : Bool := decide (len < 32)

/-- `IDX` fits its six bits: 0..63 (R101, R109). -/
def idxFits (idx : Nat) : Bool := decide (idx < 64)

/-- The operand of a form L or form I command fits its field; a form N command has no operand (R102). -/
def Instr.wellFormed : Instr → Bool
  | .nop => true
  | .reset => true
  | .keyLoad len => lenFits len
  | .ivLoad len => lenFits len
  | .chainLoad => true
  | .encStart => true
  | .encBlock => true
  | .encFinal len => lenFits len
  | .decStart => true
  | .decBlock => true
  | .decFinal len => lenFits len
  | .abort => true
  | .whiten idx => idxFits idx
  | .ffunc idx => idxFits idx
  | .feistelFwd => true
  | .feistelInv => true
  | .gfMul => true
  | .mdsMul => true

end Sys2Proof
end

