-- ==== Sys2Proof/Decode.lean ====
section
/-! DEFINITION. The decoder and the encoder of command words (`spec/30_encoding.md` R100–R108). -/

namespace Sys2Proof

/-- `LEN = zext_32(word[12:8])` (R101, R103). -/
def lenField (w : Word) : Nat := (w.extractLsb' 8 5).toNat

/-- `IDX = zext_32(word[21:16])` (R101, R103). -/
def idxField (w : Word) : Nat := (w.extractLsb' 16 6).toNat

/-- `OPC = word[7:0]` (R101). -/
def opcField (w : Word) : Byte := w.extractLsb' 0 8

/-- `RSV0 = word[15:13]` (R101). -/
def rsv0Field (w : Word) : BitVec 3 := w.extractLsb' 13 3

/-- `RSV1 = word[31:22]` (R101). -/
def rsv1Field (w : Word) : BitVec 10 := w.extractLsb' 22 10

/-- One row of the opcode map of R104: the bits a word is selected by, their values, and the command the row
stands for, given the two operand fields. -/
structure OpcodeRow where
  mask : Word
  pattern : Word
  command : Nat → Nat → Instr

/-- The word selects the row: `(w & mask) = match` (R104). -/
def OpcodeRow.selects (row : OpcodeRow) (w : Word) : Bool := (w &&& row.mask) == row.pattern

/-- The opcode map, in the order of R104. -/
def opcodeTable : List OpcodeRow :=
  [ ⟨0xFFFFFFFF#32, 0x00000000#32, fun _ _ => .nop⟩,
    ⟨0xFFFFFFFF#32, 0x00000001#32, fun _ _ => .reset⟩,
    ⟨0xFFFFE0FF#32, 0x00000010#32, fun len _ => .keyLoad len⟩,
    ⟨0xFFFFE0FF#32, 0x00000011#32, fun len _ => .ivLoad len⟩,
    ⟨0xFFFFFFFF#32, 0x00000012#32, fun _ _ => .chainLoad⟩,
    ⟨0xFFFFFFFF#32, 0x00000020#32, fun _ _ => .encStart⟩,
    ⟨0xFFFFFFFF#32, 0x00000021#32, fun _ _ => .encBlock⟩,
    ⟨0xFFFFE0FF#32, 0x00000022#32, fun len _ => .encFinal len⟩,
    ⟨0xFFFFFFFF#32, 0x00000028#32, fun _ _ => .decStart⟩,
    ⟨0xFFFFFFFF#32, 0x00000029#32, fun _ _ => .decBlock⟩,
    ⟨0xFFFFE0FF#32, 0x0000002A#32, fun len _ => .decFinal len⟩,
    ⟨0xFFFFFFFF#32, 0x0000002F#32, fun _ _ => .abort⟩,
    ⟨0xFFC0FFFF#32, 0x00000030#32, fun _ idx => .whiten idx⟩,
    ⟨0xFFC0FFFF#32, 0x00000031#32, fun _ idx => .ffunc idx⟩,
    ⟨0xFFFFFFFF#32, 0x00000032#32, fun _ _ => .feistelFwd⟩,
    ⟨0xFFFFFFFF#32, 0x00000033#32, fun _ _ => .feistelInv⟩,
    ⟨0xFFFFFFFF#32, 0x00000040#32, fun _ _ => .gfMul⟩,
    ⟨0xFFFFFFFF#32, 0x00000041#32, fun _ _ => .mdsMul⟩ ]

/-- Why a word is illegal: the cases of R106 that depend on the word alone. The fourth case of R106, a word of
the absent diffusion unit, depends on `HAS_MDS` and is in the meanings of `GF_MUL` and `MDS_MUL`. -/
inductive IllegalWord where
  /-- `OPC` is not in the table. -/
  | unusedOpcode
  /-- A listed `OPC` with a nonzero `RSV0` or `RSV1`. -/
  | reservedBits
  /-- A listed `OPC` with a nonzero field that its form does not use. -/
  | unusedField
  deriving DecidableEq, Repr

/-- Which case of R106 a word that selects no row falls under. -/
def illegalReason (w : Word) : IllegalWord :=
  if (opcodeTable.all fun row => opcField row.pattern != opcField w) then .unusedOpcode
  else if rsv0Field w != 0 || rsv1Field w != 0 then .reservedBits
  else .unusedField

/-- The decoder: the command of the row that the word selects, or the name of what makes the word illegal
(R104, R106, R108). -/
def decode (w : Word) : Except IllegalWord Instr :=
  match opcodeTable.find? (·.selects w) with
  | some row => .ok (row.command (lenField w) (idxField w))
  | none => .error (illegalReason w)

/-- `word = OPC | (LEN << 8) | (IDX << 16)` (R101). -/
def commandWord (opc len idx : Nat) : Word :=
  BitVec.ofNat 32 opc ||| (BitVec.ofNat 32 len <<< 8) ||| (BitVec.ofNat 32 idx <<< 16)

/-- The `OPC` of a command (R104). -/
def Instr.opcode : Instr → Nat
  | .nop => 0x00
  | .reset => 0x01
  | .keyLoad _ => 0x10
  | .ivLoad _ => 0x11
  | .chainLoad => 0x12
  | .encStart => 0x20
  | .encBlock => 0x21
  | .encFinal _ => 0x22
  | .decStart => 0x28
  | .decBlock => 0x29
  | .decFinal _ => 0x2A
  | .abort => 0x2F
  | .whiten _ => 0x30
  | .ffunc _ => 0x31
  | .feistelFwd => 0x32
  | .feistelInv => 0x33
  | .gfMul => 0x40
  | .mdsMul => 0x41

/-- The encoder: the one command word of a well-formed command (R101, R102). -/
def encode (i : Instr) : Word :=
  match i with
  | .keyLoad len => commandWord i.opcode len 0
  | .ivLoad len => commandWord i.opcode len 0
  | .encFinal len => commandWord i.opcode len 0
  | .decFinal len => commandWord i.opcode len 0
  | .whiten idx => commandWord i.opcode 0 idx
  | .ffunc idx => commandWord i.opcode 0 idx
  | .nop => commandWord i.opcode 0 0
  | .reset => commandWord i.opcode 0 0
  | .chainLoad => commandWord i.opcode 0 0
  | .encStart => commandWord i.opcode 0 0
  | .encBlock => commandWord i.opcode 0 0
  | .decStart => commandWord i.opcode 0 0
  | .decBlock => commandWord i.opcode 0 0
  | .abort => commandWord i.opcode 0 0
  | .feistelFwd => commandWord i.opcode 0 0
  | .feistelInv => commandWord i.opcode 0 0
  | .gfMul => commandWord i.opcode 0 0
  | .mdsMul => commandWord i.opcode 0 0

/-- The command word made of the `nbits` low bits of `w`, every bit above them 0. -/
def tableWord (nbits w : Nat) : Word := BitVec.ofNat 32 (w % 2 ^ nbits)

/-- The command the decoder reads from a word given as a number (the host's probe of the decoder). A command is
one 32-bit value written to `CMD` (R100), so there is no byte order to undo. -/
def decodeTableWord (nbits w : Nat) : Option Instr :=
  match decode (tableWord nbits w) with
  | .ok i => some i
  | .error _ => none

end Sys2Proof
end

