-- ==== Sys2Proof/Machine/Diffusion.lean ====
section
/-! DEFINITION. The GF(2^8) multiplier and the diffusion matrix (`spec/42_diffusion.md`). -/

namespace Sys2Proof.Machine

/-- `a` times `x`: the left shift and, where a bit leaves at the top, the reduction (R170). -/
def xtime (a : Byte) : Byte := if a.getLsbD 7 then (a <<< 1) ^^^ Config.gfReduce else a <<< 1

/-- The remaining iterations of the multiplication, with accumulator `p` (R170). -/
def gfMulLoop : Nat → Byte → Byte → Byte → Byte
  | 0, p, _, _ => p
  | t + 1, p, a, b => gfMulLoop t (if b.getLsbD 0 then p ^^^ a else p) (xtime a) (b >>> 1)

/-- `gfMul(a, b)`: eight iterations (R170). -/
def gfMul (a b : Byte) : Byte := gfMulLoop 8 0#8 a b

/-- `MDS(v)`: the product of the matrix and a vector of four bytes (R172). -/
def mdsVector (m : MdsMatrix) (v : Vector Byte 4) : Vector Byte 4 :=
  Vector.ofFn fun i => gfMul m[i][0] v[0] ^^^ gfMul m[i][1] v[1] ^^^ gfMul m[i][2] v[2] ^^^ gfMul m[i][3] v[3]

/-- Bytes `4c .. 4c+3` of a byte sequence. -/
def column {n : Nat} (v : Vector Byte n) (c : Nat) : Vector Byte 4 :=
  #v[byteAt v (4 * c), byteAt v (4 * c + 1), byteAt v (4 * c + 2), byteAt v (4 * c + 3)]

/-- `MDS` on each group of four bytes of a sequence (R175, R192). -/
def mdsColumns {n : Nat} (m : MdsMatrix) (v : Vector Byte n) : Vector Byte n :=
  Vector.ofFn fun k => byteAt (mdsVector m (column v (k.val / 4))) (k.val % 4)

/-- The result block of `GF_MUL`: the product in byte 0, the other bytes 0 (R174). -/
def gfMulBlock (d : Block) : Block := Vector.ofFn fun k => if k.val = 0 then gfMul d[0] d[1] else 0#8

/-- The body of `GF_MUL` (R174). -/
def bodyGfMul (s : State) : Pending := requireMdsUnit s (okResult 1 [.dout (gfMulBlock s.din)])

/-- `GF_MUL` (R174). -/
def execGfMul (s : State) : Host.Outcome State Fault Refusal := submit s (bodyGfMul s)

/-- The body of `MDS_MUL` (R175). -/
def bodyMdsMul (s : State) : Pending := requireMdsUnit s (okResult 16 [.dout (mdsColumns s.params.mdsM s.din)])

/-- `MDS_MUL` (R175). -/
def execMdsMul (s : State) : Host.Outcome State Fault Refusal := submit s (bodyMdsMul s)

end Sys2Proof.Machine
end

