-- ==== Sys2Proof/Machine/Datapath.lean ====
section
/-! DEFINITION. Whitening, the round function and the Feistel datapath (`spec/43_datapath.md`). -/

namespace Sys2Proof.Machine

/-- What the cipher functions read besides their arguments: the key-derived tables and the parameters
(R191, R192). -/
structure CipherTables where
  sbox : SBoxes
  sk : Subkeys
  mode : FSboxMode
  mdsM : MdsMatrix
  deriving DecidableEq, Repr

/-- The tables a command reads at its issue (R131). -/
def State.cipher (s : State) : CipherTables := ⟨s.sbox, s.sk, s.params.sboxMode, s.params.mdsM⟩

/-- `whiten(B, off)` (R190). -/
def whiten (sk : Subkeys) (off : Nat) (b : Block) : Block :=
  Vector.ofFn fun k => b[k] ^^^ (subkeyAt sk (off + k.val)).setWidth 8

/-- The S-box term `t` of the round function (R191). -/
def sboxTerm (c : CipherTables) (r : Byte) (w : Word) : Byte :=
  match c.mode with
  | .lookup => sboxAt c.sbox (Fin.ofNat 4 w.toNat) r
  | .zero => 0#8

/-- `F(r, w)` (R191). -/
def roundF (c : CipherTables) (r : Byte) (w : Word) : Byte := (r ^^^ sboxTerm c r w) ^^^ w.setWidth 8

/-- `G(h, w, m)` (R192). -/
def roundG (c : CipherTables) (h : Half) (w : Word) (m : Bool) : Half :=
  let g : Half := Vector.ofFn fun k => roundF c h[k] w
  if m then mdsColumns c.mdsM g else g

/-- Forward round `r` on the halves `(L, R)` (R193). -/
def encRound (c : CipherTables) (m : Bool) (r : Nat) (x : Half × Half) : Half × Half :=
  (x.2, xorHalf x.1 (roundG c x.2 (subkeyAt c.sk r) m))

/-- Inverse round `r` on the halves `(L, R)` (R194). -/
def decRound (c : CipherTables) (m : Bool) (r : Nat) (x : Half × Half) : Half × Half :=
  (xorHalf x.2 (roundG c x.1 (subkeyAt c.sk r) m), x.1)

/-- Forward rounds `0 .. n-1`, in that order (R193). -/
def encRoundsTo (c : CipherTables) (m : Bool) : Nat → Half × Half → Half × Half
  | 0, x => x
  | n + 1, x => encRound c m n (encRoundsTo c m n x)

/-- Inverse rounds `n-1 downto 0` (R194). -/
def decRoundsFrom (c : CipherTables) (m : Bool) : Nat → Half × Half → Half × Half
  | 0, x => x
  | n + 1, x => decRoundsFrom c m n (decRound c m n x)

/-- `encRounds(B, m)` (R193). -/
def encRounds (c : CipherTables) (m : Bool) (b : Block) : Block :=
  let x := encRoundsTo c m Config.rounds (leftHalf b, rightHalf b)
  joinHalves x.1 x.2

/-- `decRounds(B, m)` (R194). -/
def decRounds (c : CipherTables) (m : Bool) (b : Block) : Block :=
  let x := decRoundsFrom c m Config.rounds (leftHalf b, rightHalf b)
  joinHalves x.1 x.2

/-- The body of `WHITEN` (R197). -/
def bodyWhiten (idx : Nat) (s : State) : Pending :=
  requireRange (whitenIdxOk idx) (requireKey s (okResult 16 [.dout (whiten s.sk idx s.din)]))

/-- `WHITEN IDX` (R197). -/
def execWhiten (idx : Nat) (s : State) : Host.Outcome State Fault Refusal := submit s (bodyWhiten idx s)

/-- `F` on each byte of a block (R198). -/
def ffuncBlock (c : CipherTables) (idx : Nat) (b : Block) : Block :=
  Vector.ofFn fun k => roundF c b[k] (subkeyAt c.sk idx)

/-- The body of `FFUNC` (R198). -/
def bodyFfunc (idx : Nat) (s : State) : Pending :=
  requireRange (ffuncIdxOk idx) (requireKey s (okResult 16 [.dout (ffuncBlock s.cipher idx s.din)]))

/-- `FFUNC IDX` (R198). -/
def execFfunc (idx : Nat) (s : State) : Host.Outcome State Fault Refusal := submit s (bodyFfunc idx s)

/-- The body of `FEISTEL_FWD` (R199). -/
def bodyFeistelFwd (s : State) : Pending :=
  requireKey s (okResult 16 [.dout (encRounds s.cipher s.ctrlUseMds s.din)])

/-- `FEISTEL_FWD` (R199). -/
def execFeistelFwd (s : State) : Host.Outcome State Fault Refusal := submit s (bodyFeistelFwd s)

/-- The body of `FEISTEL_INV` (R200). -/
def bodyFeistelInv (s : State) : Pending :=
  requireKey s (okResult 16 [.dout (decRounds s.cipher s.ctrlUseMds s.din)])

/-- `FEISTEL_INV` (R200). -/
def execFeistelInv (s : State) : Host.Outcome State Fault Refusal := submit s (bodyFeistelInv s)

end Sys2Proof.Machine
end

