-- ==== Sys2Proof/Machine/Cbc.lean ====
section
/-! DEFINITION. The CBC engine, block padding and the message commands (`spec/44_cbc.md`). -/

namespace Sys2Proof.Machine

/-- `encBlock(P, prev, m)` (R220). -/
def encBlock (c : CipherTables) (m : Bool) (p prev : Block) : Block :=
  whiten c.sk Config.whitenOut (encRounds c m (whiten c.sk Config.whitenIn (xorBlock p prev)))

/-- `decBlock(C, prev, m)` (R221). -/
def decBlock (c : CipherTables) (m : Bool) (ct prev : Block) : Block :=
  xorBlock (whiten c.sk Config.whitenIn (decRounds c m (whiten c.sk Config.whitenOut ct))) prev

/-- `pad(T, n, mode)`; `always` is the mode `ALWAYS` (R224). -/
def pad (t : Block) (n : Nat) (always : Bool) : Option Block :=
  if n = 16 then some t
  else if n = 0 ∧ always = false then none
  else some (Vector.ofFn fun k => if k.val < n then t[k] else BitVec.ofNat 8 (16 - n))

/-- The number of plaintext bytes that `unpad(p)` keeps, or none where the last byte is not in 1..16 (R225). -/
def unpadLen (p : Block) : Option (Fin 17) :=
  if h : 1 ≤ p[15].toNat ∧ p[15].toNat ≤ 16 then some ⟨16 - p[15].toNat, by omega⟩ else none

/-- The writes `end` that end a message (R230, R234, R235). -/
def endWrites : List RegWrite := [.mstate .idle, .mpad false, .mmds false]

/-- What `ENC_START` and `DEC_START` share: the message of kind `m` begins (R228, R231). -/
def startBody (m : MState) (s : State) : Pending :=
  requireMstate s [.idle] (requireKey s (requireIv s
    (okResult 0 [.chain s.iv, .mstate m, .mpad s.padAlways, .mmds s.ctrlUseMds])))

/-- The body of `ENC_START` (R228). -/
def bodyEncStart (s : State) : Pending := startBody .enc s

/-- `ENC_START` (R228). -/
def execEncStart (s : State) : Host.Outcome State Fault Refusal := submit s (bodyEncStart s)

/-- The body of `ENC_BLOCK` (R229). -/
def bodyEncBlock (s : State) : Pending :=
  let c := encBlock s.cipher s.mmds s.din s.chain
  requireMstate s [.enc] (okResult 16 [.dout c, .chain c])

/-- `ENC_BLOCK` (R229). -/
def execEncBlock (s : State) : Host.Outcome State Fault Refusal := submit s (bodyEncBlock s)

/-- The body of `ENC_FINAL` (R230). -/
def bodyEncFinal (len : Nat) (s : State) : Pending :=
  requireRange (encFinalLenOk len) (requireMstate s [.enc]
    (if s.mpad = true ∧ len = 16 then errResult .badOperand []
     else match pad s.din len s.mpad with
       | none => okResult 0 endWrites
       | some b =>
         let c := encBlock s.cipher s.mmds b s.chain
         okResult 16 ([.dout c, .chain c] ++ endWrites)))

/-- `ENC_FINAL LEN` (R230). -/
def execEncFinal (len : Nat) (s : State) : Host.Outcome State Fault Refusal := submit s (bodyEncFinal len s)

/-- The body of `DEC_START` (R231). -/
def bodyDecStart (s : State) : Pending := startBody .dec s

/-- `DEC_START` (R231). -/
def execDecStart (s : State) : Host.Outcome State Fault Refusal := submit s (bodyDecStart s)

/-- The body of `DEC_BLOCK` (R232). -/
def bodyDecBlock (s : State) : Pending :=
  requireMstate s [.dec] (okResult 16 [.dout (decBlock s.cipher s.mmds s.din s.chain), .chain s.din])

/-- `DEC_BLOCK` (R232). -/
def execDecBlock (s : State) : Host.Outcome State Fault Refusal := submit s (bodyDecBlock s)

/-- The body of `DEC_FINAL` (R233, R234). -/
def bodyDecFinal (len : Nat) (s : State) : Pending :=
  requireMstate s [.dec]
    (if len ≠ 16 then errResult .invalidCiphertext endWrites
     else
       let p := decBlock s.cipher s.mmds s.din s.chain
       match unpadLen p with
       | none => errResult .paddingAmbiguity endWrites
       | some n => okResult n ([.dout (keepBytes p n.val), .chain s.din] ++ endWrites))

/-- `DEC_FINAL LEN` (R234). -/
def execDecFinal (len : Nat) (s : State) : Host.Outcome State Fault Refusal := submit s (bodyDecFinal len s)

/-- The body of `ABORT` (R235). -/
def bodyAbort : Pending := okResult 0 endWrites

/-- `ABORT` (R235). -/
def execAbort (s : State) : Host.Outcome State Fault Refusal := submit s bodyAbort

end Sys2Proof.Machine
end

