-- ==== Sys2Proof/Machine/Control.lean ====
section
/-! DEFINITION. `NOP` and `RESET` (`spec/40_command_cycle.md` R137, R138). -/

namespace Sys2Proof.Machine

/-- The body of `NOP` (R137). -/
def bodyNop : Pending := okResult 0 []

/-- `NOP` (R137). -/
def execNop (s : State) : Host.Outcome State Fault Refusal := submit s bodyNop

/-- `RESET`: taken at the write to `CMD`, busy or not, with no completion (R131, R134, R138). -/
def execReset (s : State) : Host.Outcome State Fault Refusal := .next s.performReset

end Sys2Proof.Machine
end

