-- ==== Sys2Proof/Machine/KeySetup.lean ====
section
/-! DEFINITION. Key material, S-boxes, key schedule and the load commands (`spec/41_key_setup.md`). -/

namespace Sys2Proof.Machine

/-- Key normalisation (R150). -/
def normKey (d : Block) (len : Nat) : Block := keepBytes d (min len 16)

/-- `S[j][i] = i ^ K[(j + i) mod 16]` (R152). -/
def generateSBoxes (k : Block) : SBoxes :=
  Vector.ofFn fun j => Vector.ofFn fun i => BitVec.ofNat 8 i.val ^^^ byteAt k ((j.val + i.val) % 16)

/-- `SK[i] = (K[i mod 16] + i * 0x9E3779B9) mod 2^32` (R153). -/
def keySchedule (k : Block) : Subkeys :=
  Vector.ofFn fun i => BitVec.ofNat 32 ((byteAt k (i.val % 16)).toNat + i.val * Config.ksDelta)

/-- The body of `KEY_LOAD` (R155). -/
def bodyKeyLoad (len : Nat) (s : State) : Pending :=
  let k := normKey s.din len
  requireMstate s [.idle] (okResult 0 [.key k, .sbox (generateSBoxes k), .sk (keySchedule k), .keyValid true])

/-- `KEY_LOAD LEN` (R155). -/
def execKeyLoad (len : Nat) (s : State) : Host.Outcome State Fault Refusal := submit s (bodyKeyLoad len s)

/-- The body of `IV_LOAD` (R156). -/
def bodyIvLoad (len : Nat) (s : State) : Pending :=
  requireMstate s [.idle]
    (if len ≠ 16 then errResult .invalidIvLength [.ivValid false] else okResult 0 [.iv s.din, .ivValid true])

/-- `IV_LOAD LEN` (R156). -/
def execIvLoad (len : Nat) (s : State) : Host.Outcome State Fault Refusal := submit s (bodyIvLoad len s)

/-- The body of `CHAIN_LOAD` (R157). -/
def bodyChainLoad (s : State) : Pending := okResult 0 [.chain s.din]

/-- `CHAIN_LOAD` (R157). -/
def execChainLoad (s : State) : Host.Outcome State Fault Refusal := submit s (bodyChainLoad s)

end Sys2Proof.Machine
end

