-- ==== Sys2Proof/Machine/Dispatch.lean ====
section
/-! DEFINITION. What the host's write of a command word to `CMD` does, by command: one arm per row of the opcode
table (`spec/30_encoding.md` R104). -/

namespace Sys2Proof.Machine

def exec (i : Instr) (s : State) : Host.Outcome State Fault Refusal :=
  match i with
  | .nop => Sys2Proof.Machine.execNop s
  | .reset => Sys2Proof.Machine.execReset s
  | .keyLoad len => Sys2Proof.Machine.execKeyLoad len s
  | .ivLoad len => Sys2Proof.Machine.execIvLoad len s
  | .chainLoad => Sys2Proof.Machine.execChainLoad s
  | .encStart => Sys2Proof.Machine.execEncStart s
  | .encBlock => Sys2Proof.Machine.execEncBlock s
  | .encFinal len => Sys2Proof.Machine.execEncFinal len s
  | .decStart => Sys2Proof.Machine.execDecStart s
  | .decBlock => Sys2Proof.Machine.execDecBlock s
  | .decFinal len => Sys2Proof.Machine.execDecFinal len s
  | .abort => Sys2Proof.Machine.execAbort s
  | .whiten idx => Sys2Proof.Machine.execWhiten idx s
  | .ffunc idx => Sys2Proof.Machine.execFfunc idx s
  | .feistelFwd => Sys2Proof.Machine.execFeistelFwd s
  | .feistelInv => Sys2Proof.Machine.execFeistelInv s
  | .gfMul => Sys2Proof.Machine.execGfMul s
  | .mdsMul => Sys2Proof.Machine.execMdsMul s

end Sys2Proof.Machine
end

