-- ==== Sys2Proof/Machine/Cycle.lean ====
section
/-! DEFINITION. One step of the core: a host access, the core's own turn, or the reset input
(`spec/40_command_cycle.md` R130–R135; `spec/70_reset_and_hazards.md` R340). -/

namespace Sys2Proof.Machine

/-- A host write of `w` to `CMD` (R131, R134). An illegal word is issued and completes with `ILLEGAL_CMD`
(R106). -/
def writeCmd (w : Word) (s : State) : Host.Outcome State Fault Refusal :=
  match decode w with
  | .ok i => exec i s
  | .error _ => submit s (errResult .illegalCmd [])

/-- `MemRead(addr, size)` (R72, R76). -/
def memRead (addr : BitVec 12) (size : Nat) (s : State) : Host.Outcome State Fault Refusal :=
  if badAccess addr size then .fault (.busError addr size) else .next (s.hostRead (decodeAddr addr))

/-- `MemWrite(addr, size, v)` (R72, R77). -/
def memWrite (addr : BitVec 12) (size : Nat) (v : Word) (s : State) : Host.Outcome State Fault Refusal :=
  if badAccess addr size then .fault (.busError addr size)
  else if decodeAddr addr = .cmd then writeCmd v s
  else .next (s.writeWindow (decodeAddr addr) v)

/-- One input takes its whole effect (R87, R130). -/
def takeInput (e : Input) (s : State) : Host.Outcome State Fault Refusal :=
  match e with
  | .read addr size => memRead addr size s
  | .write addr size v => memWrite addr size v s
  | .tick => .next s.complete
  | .rstN => .next s.performReset

/-- The next input, or, where none is left, the core's turn: a command in flight completes, and an idle core waits
(R132, R135, R341). -/
def cycleStep (s : State) : Host.Outcome State Fault Refusal :=
  match s.inputs with
  | [] => .next s.complete
  | e :: rest => takeInput e { s with inputs := rest }

/-- The address of `CMD` (R71). -/
def cmdAddr : BitVec 12 := 0x00C#12

/-- The host's next access is a write of `w` to `CMD`. -/
def State.queueCommand (s : State) (w : Word) : State := { s with inputs := .write cmdAddr 4 w :: s.inputs }

end Sys2Proof.Machine
end

