-- ==== Sys2Proof/Machine/Step.lean ====
section
/-! DEFINITION. The step of the machine (`spec/40_command_cycle.md` R130). -/

namespace Sys2Proof.Machine

/-- One step (R130). -/
def step (s : State) : Host.Outcome State Fault Refusal := cycleStep s

/-- The core fetches nothing (R31): a command comes to run as the host's next access, a write of its word to
`CMD`. -/
def State.withFetchWord (s : State) (nbits w : Nat) : State := s.queueCommand (tableWord nbits w)

end Sys2Proof.Machine
end

