-- ==== Sys2Proof/Machine/HostProgram.lean ====
section
/-! DEFINITION. The notation of host programs and what each statement expands to as bus accesses
(`spec/30_encoding.md` R109–R111). The host is outside the core: these are lists to place in `State.inputs`. -/

namespace Sys2Proof.Machine

/-- The address of a register of the window; a reserved address has no name (R71). -/
def WindowReg.addr : WindowReg → Option (BitVec 12)
  | .cap => some 0x000#12
  | .ctrl => some 0x004#12
  | .status => some 0x008#12
  | .cmd => some cmdAddr
  | .din n => some (BitVec.ofNat 12 (0x010 + 4 * n.val))
  | .dout n => some (BitVec.ofNat 12 (0x020 + 4 * n.val))
  | .iv n => some (BitVec.ofNat 12 (0x030 + 4 * n.val))
  | .chain n => some (BitVec.ofNat 12 (0x040 + 4 * n.val))
  | .key n => some (BitVec.ofNat 12 (0x050 + 4 * n.val))
  | .mdsm n => some (BitVec.ofNat 12 (0x060 + 4 * n.val))
  | .subkey i => some (BitVec.ofNat 12 (0x100 + 4 * i.val))
  | .sbox w => some (BitVec.ofNat 12 (0x400 + 4 * w.val))
  | .reserved => none

/-- `W <reg>, <v>` (R110). -/
def hostW (t : WindowReg) (v : Word) : List Input :=
  match t.addr with
  | some a => [.write a 4 v]
  | none => []

/-- `R <reg>` (R110). -/
def hostR (t : WindowReg) : List Input :=
  match t.addr with
  | some a => [.read a 4]
  | none => []

/-- `CMD <mnemonic> [n]` (R111). -/
def hostCmd (i : Instr) : List Input := hostW .cmd (encode i)

/-- `WAIT`, in a run where the command completes after `polls` reads of a busy `STATUS` (R111). -/
def hostWait (polls : Nat) : List Input :=
  (List.replicate polls (hostR .status)).flatten ++ [.tick] ++ hostR .status

/-- `EXEC <mnemonic> [n]` (R111). -/
def hostExec (i : Instr) (polls : Nat) : List Input := hostCmd i ++ hostWait polls

/-- `PUT b0 … b15` (R111). -/
def hostPut (b : Block) : List Input :=
  hostW (.din 0) (blockWord b 0) ++ hostW (.din 1) (blockWord b 1) ++ hostW (.din 2) (blockWord b 2)
    ++ hostW (.din 3) (blockWord b 3)

/-- `GET` (R111). -/
def hostGet : List Input := hostR (.dout 0) ++ hostR (.dout 1) ++ hostR (.dout 2) ++ hostR (.dout 3)

/-- `CLRDONE` (R111). -/
def hostClrDone : List Input := hostW .status 0x00000002#32

/-- `CLROVF` (R111). -/
def hostClrOvf : List Input := hostW .status 0x00000004#32

/-- The block that the last four reads returned, as the host unpacks it (R11, R111). -/
def lastBlockRead (log : List Word) : Block :=
  let words := log.drop (log.length - 4)
  Vector.ofFn fun k => lane (words.getD (k.val / 4) 0#32) (k.val % 4)

/-- `COPY` after its `GET`: the `PUT` of the 16 bytes just read (R111). -/
def hostCopyPut (s : State) : List Input := hostPut (lastBlockRead s.readLog)

/-- A command in assembler syntax: the mnemonic and, for forms L and I, the operand in decimal (R109). -/
def assembly : Instr → String
  | .keyLoad len => "KEY_LOAD " ++ toString len
  | .ivLoad len => "IV_LOAD " ++ toString len
  | .encFinal len => "ENC_FINAL " ++ toString len
  | .decFinal len => "DEC_FINAL " ++ toString len
  | .whiten idx => "WHITEN " ++ toString idx
  | .ffunc idx => "FFUNC " ++ toString idx
  | .nop => Instr.mnemonic .nop
  | .reset => Instr.mnemonic .reset
  | .chainLoad => Instr.mnemonic .chainLoad
  | .encStart => Instr.mnemonic .encStart
  | .encBlock => Instr.mnemonic .encBlock
  | .decStart => Instr.mnemonic .decStart
  | .decBlock => Instr.mnemonic .decBlock
  | .abort => Instr.mnemonic .abort
  | .feistelFwd => Instr.mnemonic .feistelFwd
  | .feistelInv => Instr.mnemonic .feistelInv
  | .gfMul => Instr.mnemonic .gfMul
  | .mdsMul => Instr.mnemonic .mdsMul

end Sys2Proof.Machine
end

