-- ==== Sys2Proof/Machine/HostRun.lean ====
section
/-! DEFINITION. A run of a host program, where it ends, and what its end shows
(`spec/70_reset_and_hazards.md` R351, R362–R364; `spec/93_implementation_defined.md` I16). -/

namespace Sys2Proof.Machine

/-- The input is a statement of a host program: a bus access (R110). -/
def Input.isAccess : Input → Bool
  | .read _ _ => true
  | .write _ _ _ => true
  | .tick => false
  | .rstN => false

/-- The host has executed its last statement; turns of the core and resets may still follow (R362). -/
def State.hostDone (s : State) : Bool := s.inputs.all fun e => !e.isAccess

/-- What a state shows of the end of a run: the host has executed its last statement and no command is in flight
(R362). -/
def State.ended (s : State) : Bool := s.hostDone && !s.busy

/-- The next input is a command overrun: a word other than `RESET` written to `CMD` while a command is in flight
(R134, R351). -/
def State.overruns (s : State) : Bool :=
  match s.inputs with
  | .write addr size w :: _ => decide (addr = cmdAddr ∧ size = 4 ∧ w ≠ encode .reset) && s.busy
  | _ => false

/-- The next input is a check of `OVF` that shows the overrun: a read of `STATUS` while `OVF` is 1 (R351, R364, log
entry 18). -/
def State.checksOvf (s : State) : Bool :=
  match s.inputs with
  | .read addr size :: _ => decide (addr = 0x008#12 ∧ size = 4) && s.ovf
  | _ => false

/-- A point of a run: the state, and what is left of the host's duty to check `OVF` (log entry 18). -/
structure Run where
  state : State
  /-- The host has overrun `CMD`, and no read of `STATUS` has shown the `OVF` of it since. -/
  unchecked : Bool
  /-- The `OVF` of an overrun was cleared before a read showed it: that overrun can no longer be checked. -/
  lost : Bool
  deriving DecidableEq, Repr

/-- A run from a launch state, the values its reads return not yet any (R362, R363). -/
def Run.launch (s : State) : Run := ⟨{ s with readLog := [] }, false, false⟩

/-- The next point of the run, where the step answers `t`. Two choices here are the model's (log entry 18): one read
of `STATUS` checks every overrun since `OVF` was last 0, because `OVF` is one bit and shows them together; and an
overrun whose `OVF` is cleared unread, by the host's write or by reset, stays unchecked for the rest of the run,
whatever is read later. -/
def Run.advance (r : Run) (t : State) : Run where
  state := t
  unchecked := r.state.overruns || (r.unchecked && !r.state.checksOvf)
  lost := r.lost || (r.unchecked && !t.ovf)

/-- The run ends here, if it has not ended before: no overrun is left unchecked, which is a host step the host is
assumed never to take (R362, R364, I16). -/
def Run.ended (r : Run) : Bool := r.state.ended && !r.unchecked && !r.lost

/-- The first point within `k` steps at which the run ends. A run that faults has no end (R305, R362). -/
def Run.toEnd : Nat → Run → Option State
  | 0, r => if r.ended then some r.state else none
  | k + 1, r =>
    if r.ended then some r.state
    else match step r.state with
      | .next t => Run.toEnd k (r.advance t)
      | .fault _ => none
      | .refused _ => none

/-- The end of the run from a launch state, none where the run has no end (R362). After the last input the core has
one more turn, and then nothing changes. -/
def State.runEnd (s : State) : Option State := (Run.launch s).toEnd (s.inputs.length + 1)

/-- What the end of a run shows: the state, with `S` and `SK` left out while `KEY_VALID = 0`, and the values
the host's reads returned (R362). -/
def State.observation (s : State) : State :=
  if s.keyValid then { s with inputs := [], draws := 0 }
  else { s with inputs := [], draws := 0, sbox := State.reset.sbox, sk := State.reset.sk }

/-- The observation of the run from a launch state (R362). -/
def State.runObservation (s : State) : Option State := s.runEnd.map State.observation

end Sys2Proof.Machine
end

