-- ==== Sys2Proof/Safety.lean ====
section
/-! DEFINITION. The terms that claims use: the invariant of the core, the launch states, what a record
changes, and runs of a number of steps (`spec/10_state.md` R39; `spec/44_cbc.md` R228;
`spec/70_reset_and_hazards.md` R363). -/

namespace Sys2Proof.Machine

/-- What holds of the registers whenever no command is changing them. -/
structure State.Settled (s : State) : Prop where
  /-- The tables are those of the key (R39). -/
  tables : s.keyValid = true → s.sbox = generateSBoxes s.key ∧ s.sk = keySchedule s.key
  /-- A message is active only with a key and an IV (R228). -/
  message : s.mstate ≠ .idle → s.keyValid = true ∧ s.ivValid = true
  /-- The latched modes are 0 where no message is active (R53). -/
  latches : s.mstate = .idle → s.mpad = false ∧ s.mmds = false
  /-- Diffusion is off where the unit is absent (R40, R176). -/
  unit : s.params.hasMds = false → s.useMds = false ∧ s.mmds = false
  /-- After an error there is no partial result (R52, R304). -/
  failed : s.errcode ≠ none → s.outlen = 0 ∧ s.dout = zeroBlock

/-- The invariant of every step: the registers are settled, and where a command is in flight `DONE` is 0 (R46)
and its completion leaves them settled. -/
structure State.Inv (s : State) : Prop where
  settled : s.Settled
  completes : s.pending ≠ none → s.complete.Settled
  notDone : s.pending ≠ none → s.done = false

/-- `ExplicitLaunch(σ)`: the premises on a launch state other than the reset state (R363). -/
structure State.ExplicitLaunch (s : State) : Prop where
  free : s.pending = none
  tables : s.keyValid = true → s.sbox = generateSBoxes s.key ∧ s.sk = keySchedule s.key
  message : s.mstate ≠ .idle → s.keyValid = true ∧ s.ivValid = true
  latches : s.mstate = .idle → s.mpad = false ∧ s.mmds = false

/-- Whether the command in flight writes the register, `STATUS` apart: `DOUT` always, and the registers its write
list names (R57, R136). -/
def Pending.changes (p : Pending) : WindowReg → Prop
  | .dout _ => True
  | .iv _ => ∃ b, RegWrite.iv b ∈ p.writes
  | .chain _ => ∃ b, RegWrite.chain b ∈ p.writes
  | .key _ => ∃ b, RegWrite.key b ∈ p.writes
  | .subkey _ => ∃ t, RegWrite.sk t ∈ p.writes
  | .sbox _ => ∃ t, RegWrite.sbox t ∈ p.writes
  | .cap => False
  | .ctrl => False
  | .status => False
  | .cmd => False
  | .din _ => False
  | .mdsm _ => False
  | .reserved => False

/-- `k` steps, stopping at the first fault or refusal. -/
def runSteps : Nat → State → Host.Outcome State Fault Refusal
  | 0, s => .next s
  | k + 1, s =>
    match step s with
    | .next t => runSteps k t
    | .fault f => .fault f
    | .refused r => .refused r

end Sys2Proof.Machine
end

