-- ==== Sys2Proof/Certificates/Slice0/Obligations.lean ====
section
/-! DEFINITION. The statements for the provers. A command takes effect in two steps, so a statement of a
command's result says both: what its issue answers (R131) and what the core's turn makes of that (`State.complete`,
which `Obligations.CoreTurnPerformsTheRecord` ties to `step`). Both are whole states, so each is also the
command's frame. -/

open Sys2Proof Sys2Proof.Machine

/-! Encoding. -/

/-- Decoding the word of a well-formed command gives the command back (R101, R104). -/
def Obligations.DecodeOfEncodeIsTheCommand : Prop :=
  ∀ i : Instr, i.wellFormed = true → decode (encode i) = .ok i

/-- A word that decodes carries no bit that its command does not: it is the word of that command, which is well
formed (R101, R102, R106). -/
def Obligations.DecodedWordIsItsOwnEncoding : Prop :=
  ∀ (w : Word) (i : Instr), decode w = .ok i → i.wellFormed = true ∧ encode i = w

/-- Every word selects one row and decodes to it, or selects none and is illegal (R108). -/
def Obligations.EveryWordIsOneRowOrIllegal : Prop :=
  ∀ w : Word,
    (∃ row, opcodeTable.filter (·.selects w) = [row] ∧ decode w = .ok (row.command (lenField w) (idxField w))) ∨
    (opcodeTable.filter (·.selects w) = [] ∧ ∃ e, decode w = .error e)

/-- The words of R112. -/
def Obligations.ReferenceWordsDecodeAndEncode : Prop :=
  ∀ x ∈ [(Instr.keyLoad 16, 0x00001010#32), (.keyLoad 17, 0x00001110#32), (.ivLoad 16, 0x00001011#32),
      (.ivLoad 15, 0x00000F11#32), (.ivLoad 17, 0x00001111#32), (.encFinal 0, 0x00000022#32),
      (.encFinal 11, 0x00000B22#32), (.encFinal 16, 0x00001022#32), (.decFinal 16, 0x0000102A#32),
      (.whiten 0, 0x00000030#32), (.whiten 4, 0x00040030#32), (.ffunc 39, 0x00270031#32)],
    decode x.2 = .ok x.1 ∧ encode x.1 = x.2

/-! The command cycle. -/

/-- Where the next access is a write of a command's word to `CMD`, the step is `exec` of that command at the state
with the access taken off the inputs. -/
def Obligations.StepRunsTheDecodedCommand : Prop :=
  ∀ (s : State) (w : Word) (rest : List Input) (i : Instr),
    s.inputs = .write 0x00C#12 4 w :: rest → decode w = .ok i →
    step s = exec i { s with inputs := rest }

/-- An illegal word is issued like a command, with the outcome `ILLEGAL_CMD` and no writes (R106, R131). -/
def Obligations.IllegalWordIsIssuedWithIllegalCmd : Prop :=
  ∀ (s : State) (w : Word) (rest : List Input) (e : IllegalWord),
    s.inputs = .write 0x00C#12 4 w :: rest → decode w = .error e → s.pending = none →
    step s = .next { s with inputs := rest, pending := some ⟨.err .illegalCmd, []⟩, done := false }

/-- A word written to `CMD` while a command is in flight is the `RESET` word, which discards that command, or it sets
`OVF` and changes nothing else: the word is taken off the inputs and kept nowhere (R134). -/
def Obligations.WordWrittenWhileBusyResetsOrIsDropped : Prop :=
  ∀ (s : State) (w : Word) (rest : List Input),
    s.inputs = .write 0x00C#12 4 w :: rest → s.pending ≠ none →
    (w = 0x00000001#32 → step s = exec .reset { s with inputs := rest } ∧ ∃ t, step s = .next t ∧ t.pending = none) ∧
    (w ≠ 0x00000001#32 → step s = .next { s with inputs := rest, ovf := true })

/-- The core's turn: the writes of the command in flight, in order, and then its outcome; without a command in
flight, nothing (R132). The core's turn is also what a step is where no input is left. -/
def Obligations.CoreTurnPerformsTheRecord : Prop :=
  (∀ (s : State) (rest : List Input), step { s with inputs := .tick :: rest } = .next { s with inputs := rest }.complete) ∧
  (∀ s : State, s.inputs = [] → step s = .next s.complete) ∧
  (∀ s : State, s.pending = none → s.complete = s) ∧
  (∀ (s : State) (n : Fin 17) (l : List RegWrite), s.pending = some ⟨.ok n, l⟩ →
    s.complete = { l.foldl State.applyWrite s with errcode := none, outlen := n, done := true, pending := none }) ∧
  (∀ (s : State) (c : CmdError) (l : List RegWrite), s.pending = some ⟨.err c, l⟩ →
    s.complete = { l.foldl State.applyWrite s with
      dout := zeroBlock, errcode := some c, outlen := 0, done := true, pending := none })

/-- `exec` answers a next state for every command and every state, and, for a command other than `RESET`, it only
puts a command in flight and clears `DONE`, or, on a busy core, sets `OVF` (R131, R134). -/
def Obligations.CommandWordOnlyIssuesOrDrops : Prop :=
  ∀ (i : Instr) (s : State),
    (∃ t, exec i s = .next t) ∧
    (i ≠ .reset → s.pending = none → ∃ p : Pending, exec i s = .next { s with pending := some p, done := false }) ∧
    (i ≠ .reset → s.pending ≠ none → exec i s = .next { s with ovf := true })

/-- What is issued depends on the word and the registers a command may read at its issue, and on nothing else:
not on `DOUT`, `DONE`, `OVF`, `ERRCODE`, `OUTLEN`, `IRQ_EN`, `DIAG`, nor on a draw (R142). -/
def Obligations.IssueDependsOnOperandsOnly : Prop :=
  ∀ (i : Instr) (s t : State), i ≠ .reset → s.pending = none → t.pending = none →
    s.din = t.din → s.iv = t.iv → s.chain = t.chain → s.sbox = t.sbox → s.sk = t.sk → s.padAlways = t.padAlways →
    s.useMds = t.useMds → s.keyValid = t.keyValid → s.ivValid = t.ivValid → s.mstate = t.mstate → s.mpad = t.mpad →
    s.mmds = t.mmds → s.params = t.params →
    ∃ p : Pending, exec i s = .next { s with pending := some p, done := false } ∧
      exec i t = .next { t with pending := some p, done := false }

/-- A step leaves a command in flight as it is, completes it, or resets the core (R135). The inputs are the model's
schedule (log entry 4). The reset state of the third case rests on two choices of the model: its `S` and `SK` are the
zeros of log entry 1 (R60 leaves them unspecified), and it keeps the fields of log entry 12. -/
def Obligations.CommandInFlightStaysCompletesOrIsReset : Prop :=
  ∀ (s t : State) (p : Pending), s.pending = some p → step s = .next t →
    t.pending = some p ∨
    (t = { s with inputs := s.inputs.tail }.complete ∧ (s.inputs = [] ∨ ∃ rest, s.inputs = .tick :: rest)) ∨
    (t = { State.reset with params := s.params, inputs := s.inputs.tail, readLog := s.readLog, draws := s.draws } ∧
      ((∃ rest, s.inputs = .rstN :: rest) ∨ ∃ rest, s.inputs = .write 0x00C#12 4 0x00000001#32 :: rest))

/-- Whatever the inputs are, when they are used up and the core has had one more turn, no command is in flight
(R135: weak fairness, as the model realises it). -/
def Obligations.CoreIsFreeWhenInputsRunOut : Prop :=
  ∀ s t : State, runSteps (s.inputs.length + 1) s = .next t → t.pending = none ∧ t.inputs = []

/-- A step faults exactly at an access that is not 32 bits wide or not at a multiple of 4, with that access's
address and size, and no step is refused (R72, R73, R305). -/
def Obligations.OnlyBadAccessesFault : Prop :=
  ∀ s : State,
    (∀ f, step s = .fault f ↔
      ∃ addr size rest, (s.inputs = .read addr size :: rest ∨ ∃ v, s.inputs = .write addr size v :: rest) ∧
        (size ≠ 4 ∨ addr.toNat % 4 ≠ 0) ∧ f = .busError addr size) ∧
    (∀ r, step s ≠ .refused r)

/-! Reset. -/

/-- The values R60 gives; `S` and `SK` are unspecified there and not stated. -/
def Obligations.ResetStateHasTheSpecValues : Prop :=
  State.reset.din = zeroBlock ∧ State.reset.dout = zeroBlock ∧ State.reset.key = zeroBlock ∧
  State.reset.iv = zeroBlock ∧ State.reset.chain = zeroBlock ∧ State.reset.ctrlWord = 0x00000002#32 ∧
  State.reset.statusWord = 0x00000000#32 ∧ State.reset.pending = none ∧ State.reset.irq = false

/-- `RESET` acts at its write, busy or not: the reset values of R60, no command in flight, and the constants as
they were; the reset input has the same effect (R138, R340). -/
def Obligations.ResetCommandAndInputGiveResetValues : Prop :=
  ∀ s : State,
    (∃ t, exec .reset s = .next t ∧
      t.din = zeroBlock ∧ t.dout = zeroBlock ∧ t.key = zeroBlock ∧ t.iv = zeroBlock ∧ t.chain = zeroBlock ∧
      t.ctrlWord = 0x00000002#32 ∧ t.statusWord = 0x00000000#32 ∧ t.pending = none ∧ t.irq = false ∧
      t.params = s.params ∧ t.inputs = s.inputs ∧ t.readLog = s.readLog ∧ t.draws = s.draws) ∧
    (∀ rest, step { s with inputs := .rstN :: rest } = exec .reset { s with inputs := rest })

/-- After reset no read shows anything of the state before it but the constants, whatever is written to `CTRL`
(R342). -/
def Obligations.ResetLeavesNothingOfTheKeyToRead : Prop :=
  ∀ (s t s' t' : State) (r : WindowReg) (v : Word), s.params = t.params →
    exec .reset s = .next s' → exec .reset t = .next t' →
    (s'.writeCtrl v).readValue r = (t'.writeCtrl v).readValue r ∧
    (∀ n, (s'.writeCtrl v).readValue (.key n) = 0#32) ∧ (∀ i, (s'.writeCtrl v).readValue (.subkey i) = 0#32) ∧
    (∀ w, (s'.writeCtrl v).readValue (.sbox w) = 0#32)

/-! Results of the commands. -/

/-- The three commands that check nothing: `NOP`, `CHAIN_LOAD` and `ABORT`, in every message state and with no key
(R137, R157, R235). -/
def Obligations.NopChainLoadAndAbortAlwaysSucceed : Prop :=
  ∀ s : State, s.pending = none →
    (let u : State := { s with pending := some ⟨.ok 0, []⟩, done := false }
     exec .nop s = .next u ∧ u.complete = { s with errcode := none, outlen := 0, done := true }) ∧
    (let u : State := { s with pending := some ⟨.ok 0, [.chain s.din]⟩, done := false }
     exec .chainLoad s = .next u ∧
     u.complete = { s with chain := s.din, errcode := none, outlen := 0, done := true }) ∧
    (let u : State := { s with pending := some ⟨.ok 0, [.mstate .idle, .mpad false, .mmds false]⟩, done := false }
     exec .abort s = .next u ∧
     u.complete = { s with
       mstate := .idle, mpad := false, mmds := false, errcode := none, outlen := 0, done := true })

/-- `KEY_LOAD LEN` where no message is active (R155). -/
def Obligations.KeyLoadExpandsTheKey : Prop :=
  ∀ (s : State) (len : Nat), s.pending = none → s.mstate = .idle →
    let k := normKey s.din len
    let u : State := { s with
      pending := some ⟨.ok 0, [.key k, .sbox (generateSBoxes k), .sk (keySchedule k), .keyValid true]⟩, done := false }
    exec (.keyLoad len) s = .next u ∧
    u.complete = { s with
      key := k, sbox := generateSBoxes k, sk := keySchedule k, keyValid := true, errcode := none, outlen := 0, done := true }

/-- `IV_LOAD LEN` where no message is active (R156). -/
def Obligations.IvLoadTakesSixteenBytesOnly : Prop :=
  ∀ s : State, s.pending = none → s.mstate = .idle →
    (let u : State := { s with pending := some ⟨.ok 0, [.iv s.din, .ivValid true]⟩, done := false }
     exec (.ivLoad 16) s = .next u ∧
     u.complete = { s with iv := s.din, ivValid := true, errcode := none, outlen := 0, done := true }) ∧
    (∀ len, len ≠ 16 →
      let u : State := { s with pending := some ⟨.err .invalidIvLength, [.ivValid false]⟩, done := false }
      exec (.ivLoad len) s = .next u ∧
      u.complete = { s with
        ivValid := false, dout := zeroBlock, errcode := some .invalidIvLength, outlen := 0, done := true })

/-- `ENC_START` and `DEC_START` with a key and an IV where no message is active (R228, R231). -/
def Obligations.StartBeginsTheMessageFromTheIv : Prop :=
  ∀ s : State, s.pending = none → s.mstate = .idle → s.keyValid = true → s.ivValid = true →
    (let u : State := { s with
       pending := some ⟨.ok 0, [.chain s.iv, .mstate .enc, .mpad s.padAlways, .mmds s.ctrlUseMds]⟩, done := false }
     exec .encStart s = .next u ∧
     u.complete = { s with
       chain := s.iv, mstate := .enc, mpad := s.padAlways, mmds := s.ctrlUseMds, errcode := none, outlen := 0, done := true }) ∧
    (let u : State := { s with
       pending := some ⟨.ok 0, [.chain s.iv, .mstate .dec, .mpad s.padAlways, .mmds s.ctrlUseMds]⟩, done := false }
     exec .decStart s = .next u ∧
     u.complete = { s with
       chain := s.iv, mstate := .dec, mpad := s.padAlways, mmds := s.ctrlUseMds, errcode := none, outlen := 0, done := true })

/-- `ENC_BLOCK` in an encryption (R229). -/
def Obligations.EncBlockEncryptsAndChains : Prop :=
  ∀ s : State, s.pending = none → s.mstate = .enc →
    let c := encBlock s.cipher s.mmds s.din s.chain
    let u : State := { s with pending := some ⟨.ok 16, [.dout c, .chain c]⟩, done := false }
    exec .encBlock s = .next u ∧
    u.complete = { s with dout := c, chain := c, errcode := none, outlen := 16, done := true }

/-- `ENC_FINAL LEN` in an encryption, with a length its padding mode takes: the padded chunk is encrypted and the
message ends; an empty chunk in mode `REFERENCE` gives no block (R224, R230). -/
def Obligations.EncFinalPadsEncryptsAndEnds : Prop :=
  ∀ (s : State) (len : Nat), s.pending = none → s.mstate = .enc → len ≤ 16 → ¬ (s.mpad = true ∧ len = 16) →
    (∀ b, pad s.din len s.mpad = some b →
      let c := encBlock s.cipher s.mmds b s.chain
      let u : State := { s with
        pending := some ⟨.ok 16, [.dout c, .chain c, .mstate .idle, .mpad false, .mmds false]⟩, done := false }
      exec (.encFinal len) s = .next u ∧
      u.complete = { s with
        dout := c, chain := c, mstate := .idle, mpad := false, mmds := false, errcode := none, outlen := 16, done := true }) ∧
    (pad s.din len s.mpad = none →
      let u : State := { s with pending := some ⟨.ok 0, [.mstate .idle, .mpad false, .mmds false]⟩, done := false }
      exec (.encFinal len) s = .next u ∧
      u.complete = { s with
        mstate := .idle, mpad := false, mmds := false, errcode := none, outlen := 0, done := true })

/-- `DEC_BLOCK` in a decryption: the chain takes the ciphertext (R232). -/
def Obligations.DecBlockDecryptsAndChainsTheCiphertext : Prop :=
  ∀ s : State, s.pending = none → s.mstate = .dec →
    let p := decBlock s.cipher s.mmds s.din s.chain
    let u : State := { s with pending := some ⟨.ok 16, [.dout p, .chain s.din]⟩, done := false }
    exec .decBlock s = .next u ∧
    u.complete = { s with dout := p, chain := s.din, errcode := none, outlen := 16, done := true }

/-- `DEC_FINAL 16` in a decryption, where the last byte `q` of the decrypted block is in 1..16: the first `16 - q`
bytes are the result, the others 0, and the message ends (R225, R234). -/
def Obligations.DecFinalStripsThePadAndEnds : Prop :=
  ∀ (s : State) (n : Fin 17), s.pending = none → s.mstate = .dec →
    let p := decBlock s.cipher s.mmds s.din s.chain
    1 ≤ p[15].toNat → p[15].toNat + n.val = 16 →
    let r : Block := Vector.ofFn fun k => if k.val < n.val then p[k] else 0#8
    let u : State := { s with
      pending := some ⟨.ok n, [.dout r, .chain s.din, .mstate .idle, .mpad false, .mmds false]⟩, done := false }
    exec (.decFinal 16) s = .next u ∧
    u.complete = { s with
      dout := r, chain := s.din, mstate := .idle, mpad := false, mmds := false, errcode := none, outlen := n, done := true }

/-- The two data errors of `DEC_FINAL` end the message, zero `DOUT` and leave `CHAIN` (R233, R234, R300). -/
def Obligations.DecFinalDataErrorsEndTheMessage : Prop :=
  ∀ (s : State) (len : Nat) (c : CmdError), s.pending = none → s.mstate = .dec →
    ((len ≠ 16 ∧ c = .invalidCiphertext) ∨
     (len = 16 ∧ c = .paddingAmbiguity ∧
       let p := decBlock s.cipher s.mmds s.din s.chain
       p[15].toNat = 0 ∨ 17 ≤ p[15].toNat)) →
    let u : State := { s with pending := some ⟨.err c, [.mstate .idle, .mpad false, .mmds false]⟩, done := false }
    exec (.decFinal len) s = .next u ∧
    u.complete = { s with
      mstate := .idle, mpad := false, mmds := false, dout := zeroBlock, errcode := some c, outlen := 0, done := true }

/-- `WHITEN IDX` and `FFUNC IDX` with a key and an index in range (R197, R198). -/
def Obligations.WhitenAndFfuncGiveTheirBlocks : Prop :=
  ∀ (s : State) (idx : Nat), s.pending = none → s.keyValid = true →
    (idx ≤ 24 →
      let r : Block := Vector.ofFn fun k => s.din[k] ^^^ (subkeyAt s.sk (idx + k.val)).setWidth 8
      let u : State := { s with pending := some ⟨.ok 16, [.dout r]⟩, done := false }
      exec (.whiten idx) s = .next u ∧
      u.complete = { s with dout := r, errcode := none, outlen := 16, done := true }) ∧
    (idx ≤ 39 →
      let r : Block := Vector.ofFn fun k => roundF s.cipher s.din[k] (subkeyAt s.sk idx)
      let u : State := { s with pending := some ⟨.ok 16, [.dout r]⟩, done := false }
      exec (.ffunc idx) s = .next u ∧
      u.complete = { s with dout := r, errcode := none, outlen := 16, done := true })

/-- `FEISTEL_FWD` and `FEISTEL_INV` with a key, in every message state: `CTRL.USE_MDS`, not `MMDS`, selects the
diffusion (R199, R200). -/
def Obligations.FeistelCommandsGiveTheRounds : Prop :=
  ∀ s : State, s.pending = none → s.keyValid = true →
    (let r := encRounds s.cipher s.ctrlUseMds s.din
     let u : State := { s with pending := some ⟨.ok 16, [.dout r]⟩, done := false }
     exec .feistelFwd s = .next u ∧ u.complete = { s with dout := r, errcode := none, outlen := 16, done := true }) ∧
    (let r := decRounds s.cipher s.ctrlUseMds s.din
     let u : State := { s with pending := some ⟨.ok 16, [.dout r]⟩, done := false }
     exec .feistelInv s = .next u ∧ u.complete = { s with dout := r, errcode := none, outlen := 16, done := true })

/-- `GF_MUL` and `MDS_MUL` where the unit is present, in every message state and with no key (R174, R175). -/
def Obligations.DiffusionCommandsGiveTheProducts : Prop :=
  ∀ s : State, s.pending = none → s.params.hasMds = true →
    (let r : Block := Vector.ofFn fun k => if k.val = 0 then gfMul s.din[0] s.din[1] else 0#8
     let u : State := { s with pending := some ⟨.ok 1, [.dout r]⟩, done := false }
     exec .gfMul s = .next u ∧ u.complete = { s with dout := r, errcode := none, outlen := 1, done := true }) ∧
    (∃ r : Block,
      (∀ c i : Fin 4, byteAt r (4 * c.val + i.val) =
        (mdsVector s.params.mdsM #v[byteAt s.din (4 * c.val), byteAt s.din (4 * c.val + 1),
          byteAt s.din (4 * c.val + 2), byteAt s.din (4 * c.val + 3)])[i]) ∧
      let u : State := { s with pending := some ⟨.ok 16, [.dout r]⟩, done := false }
      exec .mdsMul s = .next u ∧ u.complete = { s with dout := r, errcode := none, outlen := 16, done := true })

/-! Errors. -/

/-- The words of the diffusion unit where it is absent (R106). -/
def Obligations.DiffusionCommandsAreIllegalWithoutTheUnit : Prop :=
  ∀ s : State, s.pending = none → s.params.hasMds = false →
    let u : State := { s with pending := some ⟨.err .illegalCmd, []⟩, done := false }
    exec .gfMul s = .next u ∧ exec .mdsMul s = .next u

/-- `BAD_OPERAND` by the static ranges, before any check of the state, and by `ENC_FINAL 16` in mode `ALWAYS`
(R107, R230, R302). -/
def Obligations.OperandOutOfRangeGivesBadOperand : Prop :=
  ∀ (s : State) (n : Nat), s.pending = none →
    let u : State := { s with pending := some ⟨.err .badOperand, []⟩, done := false }
    (17 ≤ n → exec (.encFinal n) s = .next u) ∧
    (25 ≤ n → exec (.whiten n) s = .next u) ∧
    (40 ≤ n → exec (.ffunc n) s = .next u) ∧
    (s.mstate = .enc → s.mpad = true → exec (.encFinal 16) s = .next u)

/-- `BAD_SEQUENCE`, before any check of readiness or length (R139, R300, R302). -/
def Obligations.WrongMessageStateGivesBadSequence : Prop :=
  ∀ (s : State) (len : Nat), s.pending = none →
    let u : State := { s with pending := some ⟨.err .badSequence, []⟩, done := false }
    (s.mstate ≠ .idle → exec (.keyLoad len) s = .next u ∧ exec (.ivLoad len) s = .next u ∧
      exec .encStart s = .next u ∧ exec .decStart s = .next u) ∧
    (s.mstate ≠ .enc → exec .encBlock s = .next u ∧ (len ≤ 16 → exec (.encFinal len) s = .next u)) ∧
    (s.mstate ≠ .dec → exec .decBlock s = .next u ∧ exec (.decFinal len) s = .next u)

/-- `NOT_READY` (R140, R300). -/
def Obligations.MissingKeyOrIvGivesNotReady : Prop :=
  ∀ (s : State) (idx : Nat), s.pending = none →
    let u : State := { s with pending := some ⟨.err .notReady, []⟩, done := false }
    (s.mstate = .idle → (s.keyValid = false ∨ s.ivValid = false) →
      exec .encStart s = .next u ∧ exec .decStart s = .next u) ∧
    (s.keyValid = false → (idx ≤ 24 → exec (.whiten idx) s = .next u) ∧ (idx ≤ 39 → exec (.ffunc idx) s = .next u) ∧
      exec .feistelFwd s = .next u ∧ exec .feistelInv s = .next u)

/-- What a command that ends in an error leaves: the code, `OUTLEN = 0`, `DOUT = 0^16`, and only the extra writes of
R300; only the two data errors end the message (R133, R300, R303, R304). -/
def Obligations.ErrorChangesOnlyWhatItsRowNames : Prop :=
  ∀ (i : Instr) (s u : State) (c : CmdError), i ≠ .reset → s.pending = none → exec i s = .next u →
    u.complete.errcode = some c →
    (c = .invalidIvLength → u.complete = { s with
      ivValid := false, dout := zeroBlock, errcode := some c, outlen := 0, done := true }) ∧
    (c = .invalidCiphertext ∨ c = .paddingAmbiguity → u.complete = { s with
      mstate := .idle, mpad := false, mmds := false, dout := zeroBlock, errcode := some c, outlen := 0, done := true }) ∧
    (c ≠ .invalidIvLength → c ≠ .invalidCiphertext → c ≠ .paddingAmbiguity →
      u.complete = { s with dout := zeroBlock, errcode := some c, outlen := 0, done := true })

/-- The message state machine: what each command leaves in `MSTATE`, and from where it may succeed; an illegal word
leaves it; reset makes it `IDLE` (R50). -/
def Obligations.MessageStateMachine : Prop :=
  (∀ (i : Instr) (s u : State), i ≠ .reset → s.pending = none → exec i s = .next u →
    (∀ c, u.complete.errcode = some c →
      u.complete.mstate = if c = .invalidCiphertext ∨ c = .paddingAmbiguity then .idle else s.mstate) ∧
    (∀ c, u.complete.errcode = some c → (c = .invalidCiphertext ∨ c = .paddingAmbiguity) →
      s.mstate = .dec ∧ ∃ len, i = .decFinal len) ∧
    (u.complete.errcode = none →
      (i = .encStart → s.mstate = .idle ∧ u.complete.mstate = .enc) ∧
      (i = .decStart → s.mstate = .idle ∧ u.complete.mstate = .dec) ∧
      (i = .encBlock → s.mstate = .enc ∧ u.complete.mstate = .enc) ∧
      (i = .decBlock → s.mstate = .dec ∧ u.complete.mstate = .dec) ∧
      (∀ len, i = .encFinal len → s.mstate = .enc ∧ u.complete.mstate = .idle) ∧
      (∀ len, i = .decFinal len → s.mstate = .dec ∧ u.complete.mstate = .idle) ∧
      (i = .abort → u.complete.mstate = .idle) ∧
      (i ≠ .encStart → i ≠ .decStart → (∀ len, i ≠ .encFinal len) → (∀ len, i ≠ .decFinal len) → i ≠ .abort →
        u.complete.mstate = s.mstate))) ∧
  (∀ (s u : State) (w : Word) (rest : List Input) (e : IllegalWord), s.inputs = .write 0x00C#12 4 w :: rest →
    decode w = .error e → s.pending = none → step s = .next u → u.complete.mstate = s.mstate) ∧
  (∀ s u : State, exec .reset s = .next u → u.mstate = .idle) ∧
  (∀ (s u : State) (rest : List Input), s.inputs = .rstN :: rest → step s = .next u → u.mstate = .idle)

/-! The cipher functions. -/

/-- Key normalisation byte by byte, and the S-boxes entry by entry (R150, R152). -/
def Obligations.NormalisedKeyAndSBoxEntries : Prop :=
  ∀ key : Block,
    (∀ (len k : Nat) (_ : k < 16), (normKey key len)[k] = if k < min len 16 then key[k] else 0#8) ∧
    (∀ (j : Fin 4) (i : Byte),
      sboxAt (generateSBoxes key) j i = i ^^^ key[(j.val + i.toNat) % 16]'(Nat.mod_lt _ (by decide))) ∧
    (∀ (j : Fin 4) (i : Byte), sboxAt (generateSBoxes zeroBlock) j i = i)

/-- The key schedule, word by word, with the low byte and the table selector that the datapath uses (R153). -/
def Obligations.SubkeyValues : Prop :=
  ∀ (key : Block) (i : Nat) (_ : i < 40),
    (subkeyAt (keySchedule key) i).toNat = (key[i % 16].toNat + i * 0x9E3779B9) % 2 ^ 32 ∧
    ((subkeyAt (keySchedule key) i).setWidth 8).toNat = (key[i % 16].toNat + i * 0xB9) % 256 ∧
    (subkeyAt (keySchedule key) i).toNat % 4 = (key[i % 16].toNat + i) % 4

/-- Whitening byte by byte, and that it undoes itself (R190). -/
def Obligations.WhiteningIsAnElementwiseInvolution : Prop :=
  ∀ (sk : Subkeys) (off : Nat) (b : Block), off + 15 ≤ 39 →
    (∀ (k : Nat) (_ : k < 16), ∃ h : off + k < 40, (whiten sk off b)[k] = b[k] ^^^ (sk[off + k]'h).setWidth 8) ∧
    whiten sk off (whiten sk off b) = b

/-- The round function on an expanded key: its simplified form in mode `LOOKUP`, so that it reads only the low four
bits of its operand, and its form in mode `ZERO` (R191). -/
def Obligations.RoundFunctionSimplified : Prop :=
  ∀ (c : CipherTables) (key : Block) (r : Byte) (w : Word), c.sbox = generateSBoxes key →
    (c.mode = .lookup → roundF c r w = key[(w.toNat % 4 + r.toNat) % 16]'(Nat.mod_lt _ (by decide)) ^^^ w.setWidth 8) ∧
    (c.mode = .zero → roundF c r w = r ^^^ w.setWidth 8)

/-- The multiplier: zero, one, commutation, distribution over exclusive or, and associativity (R171). -/
def Obligations.GfMulLaws : Prop :=
  ∀ a b c : Byte,
    gfMul a 0#8 = 0#8 ∧ gfMul a 1#8 = a ∧ gfMul a b = gfMul b a ∧ gfMul a (b ^^^ c) = gfMul a b ^^^ gfMul a c ∧
    gfMul (gfMul a b) c = gfMul a (gfMul b c)

/-- The matrix product is linear over exclusive or, for every matrix (R172). -/
def Obligations.MdsIsLinear : Prop :=
  ∀ (m : MdsMatrix) (v w : Vector Byte 4) (i : Nat) (_ : i < 4),
    (mdsVector m (Vector.ofFn fun k => v[k] ^^^ w[k]))[i] = (mdsVector m v)[i] ^^^ (mdsVector m w)[i]

/-- One round and its inverse undo each other in either order, for every `G` (R195). -/
def Obligations.RoundAndInverseRoundCancel : Prop :=
  ∀ (c : CipherTables) (m : Bool) (r : Nat) (x : Half × Half),
    encRound c m r x = (x.2, xorHalf x.1 (roundG c x.2 (subkeyAt c.sk r) m)) ∧
    decRound c m r x = (xorHalf x.2 (roundG c x.1 (subkeyAt c.sk r) m), x.1) ∧
    decRound c m r (encRound c m r x) = x ∧ encRound c m r (decRound c m r x) = x

/-- The sixteen rounds and the inverse rounds undo each other in either order: for every block, all tables and
parameters, and both values of the diffusion switch (R196). -/
def Obligations.RoundsAndInverseRoundsCancel : Prop :=
  ∀ (c : CipherTables) (m : Bool) (b : Block), decRounds c m (encRounds c m b) = b ∧ encRounds c m (decRounds c m b) = b

/-- In mode `ZERO` without diffusion the rounds are affine over exclusive or (R201). -/
def Obligations.ZeroModeRoundsAreAffine : Prop :=
  ∀ (c : CipherTables) (a b : Block), c.mode = .zero →
    xorBlock (encRounds c false (xorBlock a b)) (encRounds c false zeroBlock) =
      xorBlock (encRounds c false a) (encRounds c false b)

/-- A block decrypts to what was encrypted, and encryption of blocks is a bijection (R222). -/
def Obligations.BlockDecryptionUndoesEncryption : Prop :=
  ∀ (c : CipherTables) (m : Bool) (prev : Block),
    (∀ p, decBlock c m (encBlock c m p prev) prev = p) ∧ Function.Bijective fun p => encBlock c m p prev

/-- CBC chaining on one block: two previous blocks (two IVs) give two ciphertexts of one plaintext; a change of the
previous ciphertext block changes the decrypted block in exactly the same bits; and a change of the ciphertext block
itself changes what it decrypts to (R238, R239). -/
def Obligations.ChainingSensitivity : Prop :=
  ∀ (c : CipherTables) (m : Bool) (p iv iv' ct ct' prev d : Block),
    (iv ≠ iv' → encBlock c m p iv ≠ encBlock c m p iv') ∧
    decBlock c m ct (xorBlock prev d) = xorBlock (decBlock c m ct prev) d ∧
    (ct ≠ ct' → decBlock c m ct prev ≠ decBlock c m ct' prev)

/-- Padding: which bytes the padded block holds, and when there is none (R224). -/
def Obligations.PaddedBlockBytes : Prop :=
  ∀ (t : Block) (n : Nat) (always : Bool), n ≤ 16 →
    (n = 16 → pad t n always = some t) ∧
    (n = 0 → always = false → pad t n always = none) ∧
    (n < 16 → (n ≠ 0 ∨ always = true) → ∃ b, pad t n always = some b ∧
      ∀ (k : Nat) (_ : k < 16), (k < n → b[k] = t[k]) ∧ (n ≤ k → b[k].toNat = 16 - n))

/-- A message's last chunk through the machine: whatever `ENC_FINAL n` leaves in `DOUT`, `n ≤ 15`, a decryption with
the same tables, chain and diffusion switch turns back into the chunk with `DEC_FINAL 16`, and reports its
length (R236). A full chunk in mode `REFERENCE` loses the bytes its last byte counts, or is an error (R226, R236). -/
def Obligations.FinalChunkRoundTrip : Prop :=
  ∀ (s t u v : State) (n : Nat),
    s.pending = none → s.mstate = .enc → exec (.encFinal n) s = .next u →
    t.pending = none → t.mstate = .dec → t.cipher = s.cipher → t.mmds = s.mmds → t.chain = s.chain →
    t.din = u.complete.dout → exec (.decFinal 16) t = .next v →
    (n ≤ 15 → (n ≠ 0 ∨ s.mpad = true) →
      v.complete.errcode = none ∧ v.complete.outlen.val = n ∧
      ∀ (k : Nat) (_ : k < 16), v.complete.dout[k] = if k < n then s.din[k] else 0#8) ∧
    (n = 16 → s.mpad = false → ∀ q, q = s.din[15].toNat →
      (1 ≤ q → q ≤ 16 → v.complete.errcode = none ∧ v.complete.outlen.val = 16 - q ∧
        ∀ (k : Nat) (_ : k < 16), v.complete.dout[k] = if k < 16 - q then s.din[k] else 0#8) ∧
      (q = 0 ∨ 17 ≤ q → v.complete.errcode = some .paddingAmbiguity ∧ v.complete.outlen = 0 ∧
        v.complete.dout = zeroBlock))

/-- A message block through the machine: what `ENC_BLOCK` leaves in `DOUT`, `DEC_BLOCK` turns back, and both leave
the same chain state (R223, R236). -/
def Obligations.MessageBlockRoundTrip : Prop :=
  ∀ s t u v : State,
    s.pending = none → s.mstate = .enc → exec .encBlock s = .next u →
    t.pending = none → t.mstate = .dec → t.cipher = s.cipher → t.mmds = s.mmds → t.chain = s.chain →
    t.din = u.complete.dout → exec .decBlock t = .next v →
    v.complete.dout = s.din ∧ v.complete.chain = u.complete.chain ∧ v.complete.outlen = 16 ∧ v.complete.errcode = none

/-- A suspended encryption or decryption resumes: after `ABORT`, a write of the saved modes to `CTRL`, the start
command and `CHAIN_LOAD` of the saved chain, the core is as it was but for `DIN`, `CTRL` and the outcome (R237).
The writes of `CTRL` and `DIN` stand here as their effects. -/
def Obligations.SavedContextIsRestored : Prop :=
  ∀ (s a b c d : State) (start : Instr), s.Inv → s.pending = none →
    (s.mstate = .enc ∧ start = .encStart) ∨ (s.mstate = .dec ∧ start = .decStart) →
    exec .abort s = .next a →
    exec start { a.complete with padAlways := s.mpad, useMds := s.mmds } = .next b →
    exec .chainLoad { b.complete with din := s.chain } = .next c →
    d = c.complete →
    d = { s with
      din := s.chain, padAlways := s.mpad, useMds := s.mmds, errcode := none, outlen := 0, done := true }

/-! Invariants and rules of the whole machine. -/

/-- Every step keeps the invariant. -/
def Obligations.StepKeepsTheInvariant : Prop :=
  ∀ s t : State, s.Inv → step s = .next t → t.Inv

/-- The invariant holds at reset. -/
def Obligations.ResetMeetsTheInvariant : Prop := State.reset.Inv

/-- `OVF` is set by a dropped command word and by nothing else, and cleared by a write of 1 to bit 2 of `STATUS` or
by reset and by nothing else (R47). -/
def Obligations.OvfChangesOnlyByItsRule : Prop :=
  ∀ s t : State, step s = .next t →
    (s.ovf = false → (t.ovf = true ↔
      s.pending ≠ none ∧ ∃ w rest, s.inputs = .write 0x00C#12 4 w :: rest ∧ w ≠ 0x00000001#32)) ∧
    (s.ovf = true → (t.ovf = false ↔
      (∃ v rest, s.inputs = .write 0x008#12 4 v :: rest ∧ v.getLsbD 2 = true) ∨
      (∃ rest, s.inputs = .rstN :: rest) ∨ ∃ rest, s.inputs = .write 0x00C#12 4 0x00000001#32 :: rest))

/-- `KEY` changes only by a write that is in flight or by reset, and only a `KEY_LOAD` with no message active puts one
in flight (R34). -/
def Obligations.OnlyKeyLoadAndResetWriteTheKey : Prop :=
  (∀ s t : State, step s = .next t → t.key ≠ s.key →
    (∃ p, s.pending = some p ∧ RegWrite.key t.key ∈ p.writes) ∨
    (t.key = zeroBlock ∧
      ((∃ rest, s.inputs = .rstN :: rest) ∨ ∃ rest, s.inputs = .write 0x00C#12 4 0x00000001#32 :: rest))) ∧
  (∀ (i : Instr) (s t : State) (p : Pending) (k : Block), s.pending = none → exec i s = .next t → t.pending = some p →
    RegWrite.key k ∈ p.writes → (∃ len, i = .keyLoad len) ∧ s.mstate = .idle)

/-! The window. -/

/-- A reserved address reads 0 and ignores writes (R71, R74); a write to a read-only register (`CAP`, `DOUTn`, `IVn`,
`CHAINn`, `KEYn`, `MDSMn`, `SUBKEY[i]`, the `SBOX` window) is ignored too, and `CMD` reads 0 (R75). None of these is an
error, busy or not. -/
def Obligations.ReservedAddressReadsZeroIgnoresWrites : Prop :=
  ∀ (s : State) (addr : BitVec 12) (v : Word) (rest : List Input), addr.toNat % 4 = 0 →
    ((0x070 ≤ addr.toNat ∧ addr.toNat < 0x100) ∨ (0x1A0 ≤ addr.toNat ∧ addr.toNat < 0x400) ∨ 0x800 ≤ addr.toNat →
      (s.inputs = .read addr 4 :: rest → step s = .next { s with inputs := rest, readLog := s.readLog ++ [0#32] }) ∧
      (s.inputs = .write addr 4 v :: rest → step s = .next { s with inputs := rest })) ∧
    (addr = 0x000#12 ∨ (0x020 ≤ addr.toNat ∧ addr.toNat < 0x070) ∨ (0x100 ≤ addr.toNat ∧ addr.toNat < 0x1A0) ∨
        (0x400 ≤ addr.toNat ∧ addr.toNat < 0x800) →
      s.inputs = .write addr 4 v :: rest → step s = .next { s with inputs := rest }) ∧
    (addr = 0x00C#12 → s.inputs = .read addr 4 :: rest →
      step s = .next { s with inputs := rest, readLog := s.readLog ++ [0#32] })

/-- A write to `DINn` replaces the four bytes of that word, in little-endian lanes, keeps the others, and reads back;
it leaves a command in flight as it is (R32, R83, R85, R131). -/
def Obligations.OperandWordWriteReplacesFourBytes : Prop :=
  ∀ (s t : State) (n : Fin 4) (v : Word) (rest : List Input),
    s.inputs = .write (BitVec.ofNat 12 (0x010 + 4 * n.val)) 4 v :: rest → step s = .next t →
    t = { s with inputs := rest, din := t.din } ∧
    (∀ (k : Nat) (_ : k < 16), t.din[k] =
      if k / 4 = n.val then BitVec.ofNat 8 (v.toNat / 2 ^ (8 * (k % 4))) else s.din[k]) ∧
    t.readValue (.din n) = v ∧ (∀ n', n' ≠ n → t.readValue (.din n') = s.readValue (.din n'))

/-- A write to `CTRL` sets its four fields, each from its own bit, and nothing else; the rest reads 0, and `USE_MDS`
reads 0 where the unit is absent. A write to `STATUS` clears `DONE` and `OVF` where its bit is 1, and nothing else
(R40, R44, R77). -/
def Obligations.ControlAndStatusWrites : Prop :=
  ∀ (s t : State) (v : Word) (rest : List Input), step s = .next t →
    (s.inputs = .write 0x004#12 4 v :: rest →
      t = { s with
        inputs := rest, irqEn := v.getLsbD 0, padAlways := v.getLsbD 1, useMds := s.params.hasMds && v.getLsbD 2,
        diag := v.getLsbD 3 } ∧
      t.readValue .ctrl = v &&& (if s.params.hasMds then 0x0000000F#32 else 0x0000000B#32)) ∧
    (s.inputs = .write 0x008#12 4 v :: rest →
      t = { s with inputs := rest, done := s.done && !v.getLsbD 1, ovf := s.ovf && !v.getLsbD 2 })

/-- What the host reads of a core that is free: the gates of the key-bearing windows (R78, R79, R80, R82), and at each
address of the map the register R71 puts there, `CTRL` and `STATUS` field by field (R40, R44) and the block registers
byte by byte (R85). The read takes no draw and changes only the record of values read (R76). `CAP` and `MDSMn` are in
`Obligations.CapabilityAndMatrixReadTheirConstants`. -/
def Obligations.KeyWindowsAreGated : Prop :=
  ∀ s : State, s.pending = none →
    (s.diag = false → (∀ n, s.readValue (.key n) = 0#32) ∧ (∀ i, s.readValue (.subkey i) = 0#32) ∧
      ∀ w, s.readValue (.sbox w) = 0#32) ∧
    (s.keyValid = false → (∀ i, s.readValue (.subkey i) = 0#32) ∧ ∀ w, s.readValue (.sbox w) = 0#32) ∧
    (s.diag = true → ∀ (n m : Fin 4), lane (s.readValue (.key n)) m.val = byteAt s.key (4 * n.val + m.val)) ∧
    (s.diag = true → s.keyValid = true → (∀ i, s.readValue (.subkey i) = s.sk[i]) ∧
      ∀ (w : Fin 256) (m : Fin 4), lane (s.readValue (.sbox w)) m.val =
        sboxAt s.sbox (Fin.ofNat 4 (w.val / 64)) (BitVec.ofNat 8 (4 * (w.val % 64) + m.val))) ∧
    (∀ (addr : BitVec 12) (rest : List Input), addr.toNat % 4 = 0 → s.inputs = .read addr 4 :: rest →
      ∃ v, step s = .next { s with inputs := rest, readLog := s.readLog ++ [v] } ∧
        (addr = 0x000#12 → v = s.readValue .cap) ∧
        (addr = 0x004#12 → v.getLsbD 0 = s.irqEn ∧ v.getLsbD 1 = s.padAlways ∧
          v.getLsbD 2 = (s.params.hasMds && s.useMds) ∧ v.getLsbD 3 = s.diag ∧ v &&& 0xFFFFFFF0#32 = 0#32) ∧
        (addr = 0x008#12 → v.getLsbD 0 = false ∧ v.getLsbD 1 = s.done ∧ v.getLsbD 2 = s.ovf ∧
          v.getLsbD 3 = s.keyValid ∧ v.getLsbD 4 = s.ivValid ∧
          (v.extractLsb' 5 2).toNat = (match s.mstate with | .idle => 0 | .enc => 1 | .dec => 2) ∧
          (v.extractLsb' 8 4).toNat = (match s.errcode with
            | none => 0 | some .illegalCmd => 1 | some .badOperand => 2 | some .badSequence => 3 | some .notReady => 4
            | some .invalidIvLength => 5 | some .invalidCiphertext => 6 | some .paddingAmbiguity => 7) ∧
          (v.extractLsb' 16 5).toNat = s.outlen.val ∧ v.getLsbD 21 = s.mpad ∧ v.getLsbD 22 = s.mmds ∧
          v &&& 0xFF80F080#32 = 0#32) ∧
        (addr = 0x00C#12 → v = 0#32) ∧
        (∀ n m : Fin 4,
          (addr.toNat = 0x010 + 4 * n.val → lane v m.val = byteAt s.din (4 * n.val + m.val)) ∧
          (addr.toNat = 0x020 + 4 * n.val → lane v m.val = byteAt s.dout (4 * n.val + m.val)) ∧
          (addr.toNat = 0x030 + 4 * n.val → lane v m.val = byteAt s.iv (4 * n.val + m.val)) ∧
          (addr.toNat = 0x040 + 4 * n.val → lane v m.val = byteAt s.chain (4 * n.val + m.val)) ∧
          (addr.toNat = 0x050 + 4 * n.val → v = s.readValue (.key n)) ∧
          (addr.toNat = 0x060 + 4 * n.val → v = s.readValue (.mdsm n))) ∧
        (∀ i : Fin 40, addr.toNat = 0x100 + 4 * i.val → v = s.readValue (.subkey i)) ∧
        (∀ w : Fin 256, addr.toNat = 0x400 + 4 * w.val → v = s.readValue (.sbox w)))

/-- What a busy core shows: `BUSY = 1`, `DONE = 0`, the true `OVF` and 0 in the reserved bits; `DOUT` and what the
command writes are a draw, fresh for each read; every other register reads as it is. A read changes nothing of the
core (R76, R136). Two readings here are the model's: that the reserved bits are 0 (log entry 5), and that during a
`KEY_LOAD` the draw of R136 comes before the gates of R82, so `KEYn`, `SUBKEY[i]` and the `SBOX` window are draws
whatever `DIAG` and `KEY_VALID` are (log entry 6). Draws are counted (log entry 3). -/
def Obligations.BusyReadsAreDraws : Prop :=
  ∀ (s t : State) (p : Pending) (addr : BitVec 12) (rest : List Input), s.pending = some p →
    s.inputs = .read addr 4 :: rest → step s = .next t →
    t = { s with inputs := rest, readLog := t.readLog, draws := t.draws } ∧
    (∃ v, t.readLog = s.readLog ++ [v] ∧
      (addr = 0x008#12 → t.draws = s.draws + 1 ∧ v.getLsbD 0 = true ∧ v.getLsbD 1 = false ∧ v.getLsbD 2 = s.ovf ∧
        v &&& 0xFF80F080#32 = 0#32) ∧
      (addr ≠ 0x008#12 → p.changes (decodeAddr addr) → v = Config.draw s.draws ∧ t.draws = s.draws + 1) ∧
      (addr ≠ 0x008#12 → ¬ p.changes (decodeAddr addr) → v = s.windowValue (decodeAddr addr) ∧ t.draws = s.draws))

/-- `CAP` and `MDSM0..3` read their constants at all times (R55, R56, R81). -/
def Obligations.CapabilityAndMatrixReadTheirConstants : Prop :=
  ∀ s : State,
    s.readValue .cap = 0x10102800#32 + (if s.params.hasMds then 1#32 else 0#32)
      + (if s.params.sboxMode = .zero then 2#32 else 0#32) ∧
    (∀ i j : Fin 4, s.params.hasMds = true → lane (s.readValue (.mdsm i)) j.val = s.params.mdsM[i][j]) ∧
    (∀ i, s.params.hasMds = false → s.readValue (.mdsm i) = 0#32) ∧
    (∀ t, step s = .next t → t.params = s.params)

/-- The completion interrupt: `irq` is `IRQ_EN & DONE`; every completion raises it where it is enabled; a write of 1
to `DONE`, an issue and reset lower it; a dropped word leaves it (R58, R310). -/
def Obligations.CompletionInterrupt : Prop :=
  ∀ s : State,
    s.irq = (s.irqEn && s.done) ∧
    (s.pending ≠ none → s.irqEn = true → s.complete.irq = true) ∧
    (∀ v : Word, v.getLsbD 1 = true → (s.writeStatus v).irq = false) ∧
    (∀ i u, s.pending = none → exec i s = .next u → u.irq = false) ∧
    (∀ u, exec .reset s = .next u → u.irq = false) ∧
    (∀ i u, i ≠ .reset → s.pending ≠ none → exec i s = .next u → u.irq = s.irq)
end

