-- ==== Sys2Proof/Laws/Bytes.lean ====
section
/-! SUPPORT. The bytes of what the block operations answer. -/

namespace Sys2Proof.Machine

theorem byteAt_of_lt {n k : Nat} (v : Vector Byte n) (h : k < n) : byteAt v k = v[k] := dif_pos h

theorem subkeyAt_of_lt {i : Nat} (sk : Subkeys) (h : i < 40) : subkeyAt sk i = sk[i] := dif_pos h

@[simp] theorem getElem_zeroBlock (k : Nat) (h : k < 16) : zeroBlock[k] = 0#8 := by simp [zeroBlock]

@[simp] theorem getElem_xorBlock (a b : Block) (k : Nat) (h : k < 16) : (xorBlock a b)[k] = a[k] ^^^ b[k] := by
  simp [xorBlock]

@[simp] theorem getElem_xorHalf (a b : Half) (k : Nat) (h : k < 8) : (xorHalf a b)[k] = a[k] ^^^ b[k] := by
  simp [xorHalf]

@[simp] theorem getElem_leftHalf (b : Block) (k : Nat) (h : k < 8) : (leftHalf b)[k] = b[k] := by
  simp [leftHalf, byteAt, show k < 16 by omega]

@[simp] theorem getElem_rightHalf (b : Block) (k : Nat) (h : k < 8) : (rightHalf b)[k] = b[8 + k] := by
  simp [rightHalf, byteAt, show 8 + k < 16 by omega]

theorem getElem_joinHalves (l r : Half) (k : Nat) (h : k < 16) :
    (joinHalves l r)[k] = if h8 : k < 8 then l[k] else r[k - 8] := by
  by_cases h8 : k < 8
  · simp [joinHalves, byteAt, h8]
  · simp [joinHalves, byteAt, h8, show k - 8 < 8 by omega]

@[simp] theorem getElem_keepBytes (b : Block) (n k : Nat) (h : k < 16) :
    (keepBytes b n)[k] = if k < n then b[k] else 0#8 := by
  simp [keepBytes]

@[simp] theorem getElem_setBlockWord (b : Block) (n : Fin 4) (v : Word) (k : Nat) (h : k < 16) :
    (setBlockWord b n v)[k] = if k / 4 = n.val then lane v (k % 4) else b[k] := by
  simp [setBlockWord]

@[simp] theorem getElem_whiten (sk : Subkeys) (off : Nat) (b : Block) (k : Nat) (h : k < 16) :
    (whiten sk off b)[k] = b[k] ^^^ (subkeyAt sk (off + k)).setWidth 8 := by
  simp [whiten]

@[simp] theorem getElem_generateSBoxes (key : Block) (j i : Nat) (hj : j < 4) (hi : i < 256) :
    (generateSBoxes key)[j][i] = BitVec.ofNat 8 i ^^^ byteAt key ((j + i) % 16) := by
  rw [generateSBoxes, Vector.getElem_ofFn, Vector.getElem_ofFn]

@[simp] theorem getElem_keySchedule (key : Block) (i : Nat) (h : i < 40) :
    (keySchedule key)[i] = BitVec.ofNat 32 ((byteAt key (i % 16)).toNat + i * Config.ksDelta) := by
  simp [keySchedule]

@[simp] theorem getElem_ffuncBlock (c : CipherTables) (idx : Nat) (b : Block) (k : Nat) (h : k < 16) :
    (ffuncBlock c idx b)[k] = roundF c b[k] (subkeyAt c.sk idx) := by
  simp [ffuncBlock]

@[simp] theorem getElem_gfMulBlock (d : Block) (k : Nat) (h : k < 16) :
    (gfMulBlock d)[k] = if k = 0 then gfMul d[0] d[1] else 0#8 := by
  simp [gfMulBlock]

theorem getElem_mdsVector (m : MdsMatrix) (v : Vector Byte 4) (i : Nat) (h : i < 4) :
    (mdsVector m v)[i] =
      gfMul m[i][0] v[0] ^^^ gfMul m[i][1] v[1] ^^^ gfMul m[i][2] v[2] ^^^ gfMul m[i][3] v[3] := by
  simp [mdsVector]

@[simp] theorem leftHalf_joinHalves (l r : Half) : leftHalf (joinHalves l r) = l := by
  ext k h
  simp [getElem_joinHalves, h]

@[simp] theorem rightHalf_joinHalves (l r : Half) : rightHalf (joinHalves l r) = r := by
  ext k h
  simp [getElem_joinHalves]

@[simp] theorem joinHalves_halves (b : Block) : joinHalves (leftHalf b) (rightHalf b) = b := by
  ext k h
  rw [getElem_joinHalves _ _ _ h]
  by_cases h8 : k < 8
  · simp [h8]
  · simp [h8, show 8 + (k - 8) = k by omega]

/-! Lanes and words (R11, R85). -/

theorem getLsbD_wordOfBytes (b0 b1 b2 b3 : Byte) (i : Nat) :
    (wordOfBytes b0 b1 b2 b3).getLsbD i =
      if i < 8 then b0.getLsbD i else if i < 16 then b1.getLsbD (i - 8)
      else if i < 24 then b2.getLsbD (i - 16) else b3.getLsbD (i - 24) := by
  have h : (wordOfBytes b0 b1 b2 b3).getLsbD i = (b3 ++ b2 ++ b1 ++ b0).getLsbD i := rfl
  rw [h, BitVec.getLsbD_append, BitVec.getLsbD_append, BitVec.getLsbD_append]
  simp only [show (i - 8 < 8) = (i < 8 ∨ i < 16) by apply propext; omega, show i - 8 - 8 = i - 16 by omega,
    show (i - 16 < 8) = (i < 16 ∨ i < 24) by apply propext; omega, show i - 16 - 8 = i - 24 by omega]
  split
  · rfl
  · simp [*]
    split <;> simp [*]

@[simp] theorem getLsbD_lane (w : Word) (m i : Nat) :
    (lane w m).getLsbD i = (decide (i < 8) && w.getLsbD (8 * m + i)) := by
  simp [lane]

/-- The four lanes of a word made of four bytes. -/
theorem lane_wordOfBytes (b0 b1 b2 b3 : Byte) (m : Fin 4) :
    lane (wordOfBytes b0 b1 b2 b3) m.val = #v[b0, b1, b2, b3][m] := by
  apply BitVec.eq_of_getLsbD_eq
  intro i hi
  rw [getLsbD_lane, getLsbD_wordOfBytes, decide_eq_true hi, Bool.true_and]
  rcases m with ⟨m, hm⟩
  interval_cases m <;> dsimp only
  · rw [if_pos (by omega)]; simp
  · rw [if_neg (by omega), if_pos (by omega)]; simp
  · rw [if_neg (by omega), if_neg (by omega), if_pos (by omega)]; simp
  · rw [if_neg (by omega), if_neg (by omega), if_neg (by omega)]; simp

/-- A word is made of its four lanes. -/
theorem wordOfBytes_lanes (w : Word) : wordOfBytes (lane w 0) (lane w 1) (lane w 2) (lane w 3) = w := by
  apply BitVec.eq_of_getLsbD_eq
  intro i hi
  simp only [getLsbD_wordOfBytes, getLsbD_lane]
  split
  · simp [*]
  · split
    · rw [decide_eq_true (by omega), Bool.true_and]; congr 1; omega
    · split <;> (rw [decide_eq_true (by omega), Bool.true_and]; congr 1; omega)

/-- A lane as a quotient. -/
theorem lane_eq_ofNat (w : Word) (m : Nat) : lane w m = BitVec.ofNat 8 (w.toNat / 2 ^ (8 * m)) := by
  simp [lane, BitVec.extractLsb', Nat.shiftRight_eq_div_pow]

end Sys2Proof.Machine
end

