-- ==== Sys2Proof/Laws/State.lean ====
section
/-! SUPPORT. One lemma per field for each update of the state. -/

namespace Sys2Proof.Machine

open Host

/-! The issue of a command (R131). -/

@[simp] theorem State.issued_din (s : State) (p : Pending) : (s.issued p).din = s.din := rfl
@[simp] theorem State.issued_dout (s : State) (p : Pending) : (s.issued p).dout = s.dout := rfl
@[simp] theorem State.issued_key (s : State) (p : Pending) : (s.issued p).key = s.key := rfl
@[simp] theorem State.issued_iv (s : State) (p : Pending) : (s.issued p).iv = s.iv := rfl
@[simp] theorem State.issued_chain (s : State) (p : Pending) : (s.issued p).chain = s.chain := rfl
@[simp] theorem State.issued_sbox (s : State) (p : Pending) : (s.issued p).sbox = s.sbox := rfl
@[simp] theorem State.issued_sk (s : State) (p : Pending) : (s.issued p).sk = s.sk := rfl
@[simp] theorem State.issued_irqEn (s : State) (p : Pending) : (s.issued p).irqEn = s.irqEn := rfl
@[simp] theorem State.issued_padAlways (s : State) (p : Pending) : (s.issued p).padAlways = s.padAlways := rfl
@[simp] theorem State.issued_useMds (s : State) (p : Pending) : (s.issued p).useMds = s.useMds := rfl
@[simp] theorem State.issued_diag (s : State) (p : Pending) : (s.issued p).diag = s.diag := rfl
@[simp] theorem State.issued_done (s : State) (p : Pending) : (s.issued p).done = false := rfl
@[simp] theorem State.issued_ovf (s : State) (p : Pending) : (s.issued p).ovf = s.ovf := rfl
@[simp] theorem State.issued_keyValid (s : State) (p : Pending) : (s.issued p).keyValid = s.keyValid := rfl
@[simp] theorem State.issued_ivValid (s : State) (p : Pending) : (s.issued p).ivValid = s.ivValid := rfl
@[simp] theorem State.issued_mstate (s : State) (p : Pending) : (s.issued p).mstate = s.mstate := rfl
@[simp] theorem State.issued_errcode (s : State) (p : Pending) : (s.issued p).errcode = s.errcode := rfl
@[simp] theorem State.issued_outlen (s : State) (p : Pending) : (s.issued p).outlen = s.outlen := rfl
@[simp] theorem State.issued_mpad (s : State) (p : Pending) : (s.issued p).mpad = s.mpad := rfl
@[simp] theorem State.issued_mmds (s : State) (p : Pending) : (s.issued p).mmds = s.mmds := rfl
@[simp] theorem State.issued_pending (s : State) (p : Pending) : (s.issued p).pending = some p := rfl
@[simp] theorem State.issued_params (s : State) (p : Pending) : (s.issued p).params = s.params := rfl
@[simp] theorem State.issued_inputs (s : State) (p : Pending) : (s.issued p).inputs = s.inputs := rfl
@[simp] theorem State.issued_readLog (s : State) (p : Pending) : (s.issued p).readLog = s.readLog := rfl
@[simp] theorem State.issued_draws (s : State) (p : Pending) : (s.issued p).draws = s.draws := rfl

/-! The dropped command word (R134). -/

@[simp] theorem State.dropped_din (s : State) : (s.dropped).din = s.din := rfl
@[simp] theorem State.dropped_dout (s : State) : (s.dropped).dout = s.dout := rfl
@[simp] theorem State.dropped_key (s : State) : (s.dropped).key = s.key := rfl
@[simp] theorem State.dropped_iv (s : State) : (s.dropped).iv = s.iv := rfl
@[simp] theorem State.dropped_chain (s : State) : (s.dropped).chain = s.chain := rfl
@[simp] theorem State.dropped_sbox (s : State) : (s.dropped).sbox = s.sbox := rfl
@[simp] theorem State.dropped_sk (s : State) : (s.dropped).sk = s.sk := rfl
@[simp] theorem State.dropped_irqEn (s : State) : (s.dropped).irqEn = s.irqEn := rfl
@[simp] theorem State.dropped_padAlways (s : State) : (s.dropped).padAlways = s.padAlways := rfl
@[simp] theorem State.dropped_useMds (s : State) : (s.dropped).useMds = s.useMds := rfl
@[simp] theorem State.dropped_diag (s : State) : (s.dropped).diag = s.diag := rfl
@[simp] theorem State.dropped_done (s : State) : (s.dropped).done = s.done := rfl
@[simp] theorem State.dropped_ovf (s : State) : (s.dropped).ovf = true := rfl
@[simp] theorem State.dropped_keyValid (s : State) : (s.dropped).keyValid = s.keyValid := rfl
@[simp] theorem State.dropped_ivValid (s : State) : (s.dropped).ivValid = s.ivValid := rfl
@[simp] theorem State.dropped_mstate (s : State) : (s.dropped).mstate = s.mstate := rfl
@[simp] theorem State.dropped_errcode (s : State) : (s.dropped).errcode = s.errcode := rfl
@[simp] theorem State.dropped_outlen (s : State) : (s.dropped).outlen = s.outlen := rfl
@[simp] theorem State.dropped_mpad (s : State) : (s.dropped).mpad = s.mpad := rfl
@[simp] theorem State.dropped_mmds (s : State) : (s.dropped).mmds = s.mmds := rfl
@[simp] theorem State.dropped_pending (s : State) : (s.dropped).pending = s.pending := rfl
@[simp] theorem State.dropped_params (s : State) : (s.dropped).params = s.params := rfl
@[simp] theorem State.dropped_inputs (s : State) : (s.dropped).inputs = s.inputs := rfl
@[simp] theorem State.dropped_readLog (s : State) : (s.dropped).readLog = s.readLog := rfl
@[simp] theorem State.dropped_draws (s : State) : (s.dropped).draws = s.draws := rfl

/-! The completion with `Ok(n)` (R132). -/

@[simp] theorem State.finishOk_din (s : State) (n : Fin 17) : (s.finish (.ok n)).din = s.din := rfl
@[simp] theorem State.finishOk_dout (s : State) (n : Fin 17) : (s.finish (.ok n)).dout = s.dout := rfl
@[simp] theorem State.finishOk_key (s : State) (n : Fin 17) : (s.finish (.ok n)).key = s.key := rfl
@[simp] theorem State.finishOk_iv (s : State) (n : Fin 17) : (s.finish (.ok n)).iv = s.iv := rfl
@[simp] theorem State.finishOk_chain (s : State) (n : Fin 17) : (s.finish (.ok n)).chain = s.chain := rfl
@[simp] theorem State.finishOk_sbox (s : State) (n : Fin 17) : (s.finish (.ok n)).sbox = s.sbox := rfl
@[simp] theorem State.finishOk_sk (s : State) (n : Fin 17) : (s.finish (.ok n)).sk = s.sk := rfl
@[simp] theorem State.finishOk_irqEn (s : State) (n : Fin 17) : (s.finish (.ok n)).irqEn = s.irqEn := rfl
@[simp] theorem State.finishOk_padAlways (s : State) (n : Fin 17) : (s.finish (.ok n)).padAlways = s.padAlways := rfl
@[simp] theorem State.finishOk_useMds (s : State) (n : Fin 17) : (s.finish (.ok n)).useMds = s.useMds := rfl
@[simp] theorem State.finishOk_diag (s : State) (n : Fin 17) : (s.finish (.ok n)).diag = s.diag := rfl
@[simp] theorem State.finishOk_done (s : State) (n : Fin 17) : (s.finish (.ok n)).done = true := rfl
@[simp] theorem State.finishOk_ovf (s : State) (n : Fin 17) : (s.finish (.ok n)).ovf = s.ovf := rfl
@[simp] theorem State.finishOk_keyValid (s : State) (n : Fin 17) : (s.finish (.ok n)).keyValid = s.keyValid := rfl
@[simp] theorem State.finishOk_ivValid (s : State) (n : Fin 17) : (s.finish (.ok n)).ivValid = s.ivValid := rfl
@[simp] theorem State.finishOk_mstate (s : State) (n : Fin 17) : (s.finish (.ok n)).mstate = s.mstate := rfl
@[simp] theorem State.finishOk_errcode (s : State) (n : Fin 17) : (s.finish (.ok n)).errcode = none := rfl
@[simp] theorem State.finishOk_outlen (s : State) (n : Fin 17) : (s.finish (.ok n)).outlen = n := rfl
@[simp] theorem State.finishOk_mpad (s : State) (n : Fin 17) : (s.finish (.ok n)).mpad = s.mpad := rfl
@[simp] theorem State.finishOk_mmds (s : State) (n : Fin 17) : (s.finish (.ok n)).mmds = s.mmds := rfl
@[simp] theorem State.finishOk_pending (s : State) (n : Fin 17) : (s.finish (.ok n)).pending = none := rfl
@[simp] theorem State.finishOk_params (s : State) (n : Fin 17) : (s.finish (.ok n)).params = s.params := rfl
@[simp] theorem State.finishOk_inputs (s : State) (n : Fin 17) : (s.finish (.ok n)).inputs = s.inputs := rfl
@[simp] theorem State.finishOk_readLog (s : State) (n : Fin 17) : (s.finish (.ok n)).readLog = s.readLog := rfl
@[simp] theorem State.finishOk_draws (s : State) (n : Fin 17) : (s.finish (.ok n)).draws = s.draws := rfl

/-! The completion with `Err(c)` (R132, R133). -/

@[simp] theorem State.finishErr_din (s : State) (c : CmdError) : (s.finish (.err c)).din = s.din := rfl
@[simp] theorem State.finishErr_dout (s : State) (c : CmdError) : (s.finish (.err c)).dout = zeroBlock := rfl
@[simp] theorem State.finishErr_key (s : State) (c : CmdError) : (s.finish (.err c)).key = s.key := rfl
@[simp] theorem State.finishErr_iv (s : State) (c : CmdError) : (s.finish (.err c)).iv = s.iv := rfl
@[simp] theorem State.finishErr_chain (s : State) (c : CmdError) : (s.finish (.err c)).chain = s.chain := rfl
@[simp] theorem State.finishErr_sbox (s : State) (c : CmdError) : (s.finish (.err c)).sbox = s.sbox := rfl
@[simp] theorem State.finishErr_sk (s : State) (c : CmdError) : (s.finish (.err c)).sk = s.sk := rfl
@[simp] theorem State.finishErr_irqEn (s : State) (c : CmdError) : (s.finish (.err c)).irqEn = s.irqEn := rfl
@[simp] theorem State.finishErr_padAlways (s : State) (c : CmdError) : (s.finish (.err c)).padAlways = s.padAlways := rfl
@[simp] theorem State.finishErr_useMds (s : State) (c : CmdError) : (s.finish (.err c)).useMds = s.useMds := rfl
@[simp] theorem State.finishErr_diag (s : State) (c : CmdError) : (s.finish (.err c)).diag = s.diag := rfl
@[simp] theorem State.finishErr_done (s : State) (c : CmdError) : (s.finish (.err c)).done = true := rfl
@[simp] theorem State.finishErr_ovf (s : State) (c : CmdError) : (s.finish (.err c)).ovf = s.ovf := rfl
@[simp] theorem State.finishErr_keyValid (s : State) (c : CmdError) : (s.finish (.err c)).keyValid = s.keyValid := rfl
@[simp] theorem State.finishErr_ivValid (s : State) (c : CmdError) : (s.finish (.err c)).ivValid = s.ivValid := rfl
@[simp] theorem State.finishErr_mstate (s : State) (c : CmdError) : (s.finish (.err c)).mstate = s.mstate := rfl
@[simp] theorem State.finishErr_errcode (s : State) (c : CmdError) : (s.finish (.err c)).errcode = some c := rfl
@[simp] theorem State.finishErr_outlen (s : State) (c : CmdError) : (s.finish (.err c)).outlen = 0 := rfl
@[simp] theorem State.finishErr_mpad (s : State) (c : CmdError) : (s.finish (.err c)).mpad = s.mpad := rfl
@[simp] theorem State.finishErr_mmds (s : State) (c : CmdError) : (s.finish (.err c)).mmds = s.mmds := rfl
@[simp] theorem State.finishErr_pending (s : State) (c : CmdError) : (s.finish (.err c)).pending = none := rfl
@[simp] theorem State.finishErr_params (s : State) (c : CmdError) : (s.finish (.err c)).params = s.params := rfl
@[simp] theorem State.finishErr_inputs (s : State) (c : CmdError) : (s.finish (.err c)).inputs = s.inputs := rfl
@[simp] theorem State.finishErr_readLog (s : State) (c : CmdError) : (s.finish (.err c)).readLog = s.readLog := rfl
@[simp] theorem State.finishErr_draws (s : State) (c : CmdError) : (s.finish (.err c)).draws = s.draws := rfl

/-! Reset (R60, R340). -/

@[simp] theorem State.performReset_din (s : State) : (s.performReset).din = State.reset.din := rfl
@[simp] theorem State.performReset_dout (s : State) : (s.performReset).dout = State.reset.dout := rfl
@[simp] theorem State.performReset_key (s : State) : (s.performReset).key = State.reset.key := rfl
@[simp] theorem State.performReset_iv (s : State) : (s.performReset).iv = State.reset.iv := rfl
@[simp] theorem State.performReset_chain (s : State) : (s.performReset).chain = State.reset.chain := rfl
@[simp] theorem State.performReset_sbox (s : State) : (s.performReset).sbox = State.reset.sbox := rfl
@[simp] theorem State.performReset_sk (s : State) : (s.performReset).sk = State.reset.sk := rfl
@[simp] theorem State.performReset_irqEn (s : State) : (s.performReset).irqEn = State.reset.irqEn := rfl
@[simp] theorem State.performReset_padAlways (s : State) : (s.performReset).padAlways = State.reset.padAlways := rfl
@[simp] theorem State.performReset_useMds (s : State) : (s.performReset).useMds = State.reset.useMds := rfl
@[simp] theorem State.performReset_diag (s : State) : (s.performReset).diag = State.reset.diag := rfl
@[simp] theorem State.performReset_done (s : State) : (s.performReset).done = State.reset.done := rfl
@[simp] theorem State.performReset_ovf (s : State) : (s.performReset).ovf = State.reset.ovf := rfl
@[simp] theorem State.performReset_keyValid (s : State) : (s.performReset).keyValid = State.reset.keyValid := rfl
@[simp] theorem State.performReset_ivValid (s : State) : (s.performReset).ivValid = State.reset.ivValid := rfl
@[simp] theorem State.performReset_mstate (s : State) : (s.performReset).mstate = State.reset.mstate := rfl
@[simp] theorem State.performReset_errcode (s : State) : (s.performReset).errcode = State.reset.errcode := rfl
@[simp] theorem State.performReset_outlen (s : State) : (s.performReset).outlen = State.reset.outlen := rfl
@[simp] theorem State.performReset_mpad (s : State) : (s.performReset).mpad = State.reset.mpad := rfl
@[simp] theorem State.performReset_mmds (s : State) : (s.performReset).mmds = State.reset.mmds := rfl
@[simp] theorem State.performReset_pending (s : State) : (s.performReset).pending = State.reset.pending := rfl
@[simp] theorem State.performReset_params (s : State) : (s.performReset).params = s.params := rfl
@[simp] theorem State.performReset_inputs (s : State) : (s.performReset).inputs = s.inputs := rfl
@[simp] theorem State.performReset_readLog (s : State) : (s.performReset).readLog = s.readLog := rfl
@[simp] theorem State.performReset_draws (s : State) : (s.performReset).draws = s.draws := rfl

/-! A host read (R76). -/

@[simp] theorem State.hostRead_din (s : State) (t : WindowReg) : (s.hostRead t).din = s.din := rfl
@[simp] theorem State.hostRead_dout (s : State) (t : WindowReg) : (s.hostRead t).dout = s.dout := rfl
@[simp] theorem State.hostRead_key (s : State) (t : WindowReg) : (s.hostRead t).key = s.key := rfl
@[simp] theorem State.hostRead_iv (s : State) (t : WindowReg) : (s.hostRead t).iv = s.iv := rfl
@[simp] theorem State.hostRead_chain (s : State) (t : WindowReg) : (s.hostRead t).chain = s.chain := rfl
@[simp] theorem State.hostRead_sbox (s : State) (t : WindowReg) : (s.hostRead t).sbox = s.sbox := rfl
@[simp] theorem State.hostRead_sk (s : State) (t : WindowReg) : (s.hostRead t).sk = s.sk := rfl
@[simp] theorem State.hostRead_irqEn (s : State) (t : WindowReg) : (s.hostRead t).irqEn = s.irqEn := rfl
@[simp] theorem State.hostRead_padAlways (s : State) (t : WindowReg) : (s.hostRead t).padAlways = s.padAlways := rfl
@[simp] theorem State.hostRead_useMds (s : State) (t : WindowReg) : (s.hostRead t).useMds = s.useMds := rfl
@[simp] theorem State.hostRead_diag (s : State) (t : WindowReg) : (s.hostRead t).diag = s.diag := rfl
@[simp] theorem State.hostRead_done (s : State) (t : WindowReg) : (s.hostRead t).done = s.done := rfl
@[simp] theorem State.hostRead_ovf (s : State) (t : WindowReg) : (s.hostRead t).ovf = s.ovf := rfl
@[simp] theorem State.hostRead_keyValid (s : State) (t : WindowReg) : (s.hostRead t).keyValid = s.keyValid := rfl
@[simp] theorem State.hostRead_ivValid (s : State) (t : WindowReg) : (s.hostRead t).ivValid = s.ivValid := rfl
@[simp] theorem State.hostRead_mstate (s : State) (t : WindowReg) : (s.hostRead t).mstate = s.mstate := rfl
@[simp] theorem State.hostRead_errcode (s : State) (t : WindowReg) : (s.hostRead t).errcode = s.errcode := rfl
@[simp] theorem State.hostRead_outlen (s : State) (t : WindowReg) : (s.hostRead t).outlen = s.outlen := rfl
@[simp] theorem State.hostRead_mpad (s : State) (t : WindowReg) : (s.hostRead t).mpad = s.mpad := rfl
@[simp] theorem State.hostRead_mmds (s : State) (t : WindowReg) : (s.hostRead t).mmds = s.mmds := rfl
@[simp] theorem State.hostRead_pending (s : State) (t : WindowReg) : (s.hostRead t).pending = s.pending := rfl
@[simp] theorem State.hostRead_params (s : State) (t : WindowReg) : (s.hostRead t).params = s.params := rfl
@[simp] theorem State.hostRead_inputs (s : State) (t : WindowReg) : (s.hostRead t).inputs = s.inputs := rfl
@[simp] theorem State.hostRead_readLog (s : State) (t : WindowReg) : (s.hostRead t).readLog = s.readLog ++ [s.readValue t] := rfl
@[simp] theorem State.hostRead_draws (s : State) (t : WindowReg) : (s.hostRead t).draws = if s.readsDraw t then s.draws + 1 else s.draws := rfl

/-! A host write to `STATUS` (R44). -/

@[simp] theorem State.writeStatus_din (s : State) (v : Word) : (s.writeStatus v).din = s.din := rfl
@[simp] theorem State.writeStatus_dout (s : State) (v : Word) : (s.writeStatus v).dout = s.dout := rfl
@[simp] theorem State.writeStatus_key (s : State) (v : Word) : (s.writeStatus v).key = s.key := rfl
@[simp] theorem State.writeStatus_iv (s : State) (v : Word) : (s.writeStatus v).iv = s.iv := rfl
@[simp] theorem State.writeStatus_chain (s : State) (v : Word) : (s.writeStatus v).chain = s.chain := rfl
@[simp] theorem State.writeStatus_sbox (s : State) (v : Word) : (s.writeStatus v).sbox = s.sbox := rfl
@[simp] theorem State.writeStatus_sk (s : State) (v : Word) : (s.writeStatus v).sk = s.sk := rfl
@[simp] theorem State.writeStatus_irqEn (s : State) (v : Word) : (s.writeStatus v).irqEn = s.irqEn := rfl
@[simp] theorem State.writeStatus_padAlways (s : State) (v : Word) : (s.writeStatus v).padAlways = s.padAlways := rfl
@[simp] theorem State.writeStatus_useMds (s : State) (v : Word) : (s.writeStatus v).useMds = s.useMds := rfl
@[simp] theorem State.writeStatus_diag (s : State) (v : Word) : (s.writeStatus v).diag = s.diag := rfl
@[simp] theorem State.writeStatus_done (s : State) (v : Word) : (s.writeStatus v).done = (s.done && !v.getLsbD 1) := rfl
@[simp] theorem State.writeStatus_ovf (s : State) (v : Word) : (s.writeStatus v).ovf = (s.ovf && !v.getLsbD 2) := rfl
@[simp] theorem State.writeStatus_keyValid (s : State) (v : Word) : (s.writeStatus v).keyValid = s.keyValid := rfl
@[simp] theorem State.writeStatus_ivValid (s : State) (v : Word) : (s.writeStatus v).ivValid = s.ivValid := rfl
@[simp] theorem State.writeStatus_mstate (s : State) (v : Word) : (s.writeStatus v).mstate = s.mstate := rfl
@[simp] theorem State.writeStatus_errcode (s : State) (v : Word) : (s.writeStatus v).errcode = s.errcode := rfl
@[simp] theorem State.writeStatus_outlen (s : State) (v : Word) : (s.writeStatus v).outlen = s.outlen := rfl
@[simp] theorem State.writeStatus_mpad (s : State) (v : Word) : (s.writeStatus v).mpad = s.mpad := rfl
@[simp] theorem State.writeStatus_mmds (s : State) (v : Word) : (s.writeStatus v).mmds = s.mmds := rfl
@[simp] theorem State.writeStatus_pending (s : State) (v : Word) : (s.writeStatus v).pending = s.pending := rfl
@[simp] theorem State.writeStatus_params (s : State) (v : Word) : (s.writeStatus v).params = s.params := rfl
@[simp] theorem State.writeStatus_inputs (s : State) (v : Word) : (s.writeStatus v).inputs = s.inputs := rfl
@[simp] theorem State.writeStatus_readLog (s : State) (v : Word) : (s.writeStatus v).readLog = s.readLog := rfl
@[simp] theorem State.writeStatus_draws (s : State) (v : Word) : (s.writeStatus v).draws = s.draws := rfl

/-! A host write to `CTRL` (R40). -/

@[simp] theorem State.writeCtrl_din (s : State) (v : Word) : (s.writeCtrl v).din = s.din := rfl
@[simp] theorem State.writeCtrl_dout (s : State) (v : Word) : (s.writeCtrl v).dout = s.dout := rfl
@[simp] theorem State.writeCtrl_key (s : State) (v : Word) : (s.writeCtrl v).key = s.key := rfl
@[simp] theorem State.writeCtrl_iv (s : State) (v : Word) : (s.writeCtrl v).iv = s.iv := rfl
@[simp] theorem State.writeCtrl_chain (s : State) (v : Word) : (s.writeCtrl v).chain = s.chain := rfl
@[simp] theorem State.writeCtrl_sbox (s : State) (v : Word) : (s.writeCtrl v).sbox = s.sbox := rfl
@[simp] theorem State.writeCtrl_sk (s : State) (v : Word) : (s.writeCtrl v).sk = s.sk := rfl
@[simp] theorem State.writeCtrl_irqEn (s : State) (v : Word) : (s.writeCtrl v).irqEn = v.getLsbD 0 := rfl
@[simp] theorem State.writeCtrl_padAlways (s : State) (v : Word) : (s.writeCtrl v).padAlways = v.getLsbD 1 := rfl
@[simp] theorem State.writeCtrl_useMds (s : State) (v : Word) : (s.writeCtrl v).useMds = (s.params.hasMds && v.getLsbD 2) := rfl
@[simp] theorem State.writeCtrl_diag (s : State) (v : Word) : (s.writeCtrl v).diag = v.getLsbD 3 := rfl
@[simp] theorem State.writeCtrl_done (s : State) (v : Word) : (s.writeCtrl v).done = s.done := rfl
@[simp] theorem State.writeCtrl_ovf (s : State) (v : Word) : (s.writeCtrl v).ovf = s.ovf := rfl
@[simp] theorem State.writeCtrl_keyValid (s : State) (v : Word) : (s.writeCtrl v).keyValid = s.keyValid := rfl
@[simp] theorem State.writeCtrl_ivValid (s : State) (v : Word) : (s.writeCtrl v).ivValid = s.ivValid := rfl
@[simp] theorem State.writeCtrl_mstate (s : State) (v : Word) : (s.writeCtrl v).mstate = s.mstate := rfl
@[simp] theorem State.writeCtrl_errcode (s : State) (v : Word) : (s.writeCtrl v).errcode = s.errcode := rfl
@[simp] theorem State.writeCtrl_outlen (s : State) (v : Word) : (s.writeCtrl v).outlen = s.outlen := rfl
@[simp] theorem State.writeCtrl_mpad (s : State) (v : Word) : (s.writeCtrl v).mpad = s.mpad := rfl
@[simp] theorem State.writeCtrl_mmds (s : State) (v : Word) : (s.writeCtrl v).mmds = s.mmds := rfl
@[simp] theorem State.writeCtrl_pending (s : State) (v : Word) : (s.writeCtrl v).pending = s.pending := rfl
@[simp] theorem State.writeCtrl_params (s : State) (v : Word) : (s.writeCtrl v).params = s.params := rfl
@[simp] theorem State.writeCtrl_inputs (s : State) (v : Word) : (s.writeCtrl v).inputs = s.inputs := rfl
@[simp] theorem State.writeCtrl_readLog (s : State) (v : Word) : (s.writeCtrl v).readLog = s.readLog := rfl
@[simp] theorem State.writeCtrl_draws (s : State) (v : Word) : (s.writeCtrl v).draws = s.draws := rfl

/-! The next host access (R131). -/

@[simp] theorem State.queueCommand_din (s : State) (w : Word) : (s.queueCommand w).din = s.din := rfl
@[simp] theorem State.queueCommand_dout (s : State) (w : Word) : (s.queueCommand w).dout = s.dout := rfl
@[simp] theorem State.queueCommand_key (s : State) (w : Word) : (s.queueCommand w).key = s.key := rfl
@[simp] theorem State.queueCommand_iv (s : State) (w : Word) : (s.queueCommand w).iv = s.iv := rfl
@[simp] theorem State.queueCommand_chain (s : State) (w : Word) : (s.queueCommand w).chain = s.chain := rfl
@[simp] theorem State.queueCommand_sbox (s : State) (w : Word) : (s.queueCommand w).sbox = s.sbox := rfl
@[simp] theorem State.queueCommand_sk (s : State) (w : Word) : (s.queueCommand w).sk = s.sk := rfl
@[simp] theorem State.queueCommand_irqEn (s : State) (w : Word) : (s.queueCommand w).irqEn = s.irqEn := rfl
@[simp] theorem State.queueCommand_padAlways (s : State) (w : Word) : (s.queueCommand w).padAlways = s.padAlways := rfl
@[simp] theorem State.queueCommand_useMds (s : State) (w : Word) : (s.queueCommand w).useMds = s.useMds := rfl
@[simp] theorem State.queueCommand_diag (s : State) (w : Word) : (s.queueCommand w).diag = s.diag := rfl
@[simp] theorem State.queueCommand_done (s : State) (w : Word) : (s.queueCommand w).done = s.done := rfl
@[simp] theorem State.queueCommand_ovf (s : State) (w : Word) : (s.queueCommand w).ovf = s.ovf := rfl
@[simp] theorem State.queueCommand_keyValid (s : State) (w : Word) : (s.queueCommand w).keyValid = s.keyValid := rfl
@[simp] theorem State.queueCommand_ivValid (s : State) (w : Word) : (s.queueCommand w).ivValid = s.ivValid := rfl
@[simp] theorem State.queueCommand_mstate (s : State) (w : Word) : (s.queueCommand w).mstate = s.mstate := rfl
@[simp] theorem State.queueCommand_errcode (s : State) (w : Word) : (s.queueCommand w).errcode = s.errcode := rfl
@[simp] theorem State.queueCommand_outlen (s : State) (w : Word) : (s.queueCommand w).outlen = s.outlen := rfl
@[simp] theorem State.queueCommand_mpad (s : State) (w : Word) : (s.queueCommand w).mpad = s.mpad := rfl
@[simp] theorem State.queueCommand_mmds (s : State) (w : Word) : (s.queueCommand w).mmds = s.mmds := rfl
@[simp] theorem State.queueCommand_pending (s : State) (w : Word) : (s.queueCommand w).pending = s.pending := rfl
@[simp] theorem State.queueCommand_params (s : State) (w : Word) : (s.queueCommand w).params = s.params := rfl
@[simp] theorem State.queueCommand_inputs (s : State) (w : Word) : (s.queueCommand w).inputs = .write cmdAddr 4 w :: s.inputs := rfl
@[simp] theorem State.queueCommand_readLog (s : State) (w : Word) : (s.queueCommand w).readLog = s.readLog := rfl
@[simp] theorem State.queueCommand_draws (s : State) (w : Word) : (s.queueCommand w).draws = s.draws := rfl

/-! One write of a write list (R132). -/

@[simp] theorem State.applyWrite_dout (s : State) (b : Block) : s.applyWrite (.dout b) = { s with dout := b } := rfl
@[simp] theorem State.applyWrite_key (s : State) (b : Block) : s.applyWrite (.key b) = { s with key := b } := rfl
@[simp] theorem State.applyWrite_iv (s : State) (b : Block) : s.applyWrite (.iv b) = { s with iv := b } := rfl
@[simp] theorem State.applyWrite_chain (s : State) (b : Block) : s.applyWrite (.chain b) = { s with chain := b } := rfl
@[simp] theorem State.applyWrite_sbox (s : State) (t : SBoxes) : s.applyWrite (.sbox t) = { s with sbox := t } := rfl
@[simp] theorem State.applyWrite_sk (s : State) (t : Subkeys) : s.applyWrite (.sk t) = { s with sk := t } := rfl
@[simp] theorem State.applyWrite_keyValid (s : State) (v : Bool) : s.applyWrite (.keyValid v) = { s with keyValid := v } := rfl
@[simp] theorem State.applyWrite_ivValid (s : State) (v : Bool) : s.applyWrite (.ivValid v) = { s with ivValid := v } := rfl
@[simp] theorem State.applyWrite_mstate (s : State) (m : MState) : s.applyWrite (.mstate m) = { s with mstate := m } := rfl
@[simp] theorem State.applyWrite_mpad (s : State) (v : Bool) : s.applyWrite (.mpad v) = { s with mpad := v } := rfl
@[simp] theorem State.applyWrite_mmds (s : State) (v : Bool) : s.applyWrite (.mmds v) = { s with mmds := v } := rfl

/-! What no write list can name (R57). -/

@[simp] theorem State.applyWrite_din_frame (s : State) (x : RegWrite) : (s.applyWrite x).din = s.din := by
  cases x <;> rfl
@[simp] theorem State.applyWrites_din (s : State) (l : List RegWrite) : (s.applyWrites l).din = s.din := by
  unfold State.applyWrites
  induction l generalizing s with
  | nil => rfl
  | cons x l ih => rw [List.foldl_cons, ih, State.applyWrite_din_frame]
@[simp] theorem State.applyWrite_irqEn_frame (s : State) (x : RegWrite) : (s.applyWrite x).irqEn = s.irqEn := by
  cases x <;> rfl
@[simp] theorem State.applyWrites_irqEn (s : State) (l : List RegWrite) : (s.applyWrites l).irqEn = s.irqEn := by
  unfold State.applyWrites
  induction l generalizing s with
  | nil => rfl
  | cons x l ih => rw [List.foldl_cons, ih, State.applyWrite_irqEn_frame]
@[simp] theorem State.applyWrite_padAlways_frame (s : State) (x : RegWrite) : (s.applyWrite x).padAlways = s.padAlways := by
  cases x <;> rfl
@[simp] theorem State.applyWrites_padAlways (s : State) (l : List RegWrite) : (s.applyWrites l).padAlways = s.padAlways := by
  unfold State.applyWrites
  induction l generalizing s with
  | nil => rfl
  | cons x l ih => rw [List.foldl_cons, ih, State.applyWrite_padAlways_frame]
@[simp] theorem State.applyWrite_useMds_frame (s : State) (x : RegWrite) : (s.applyWrite x).useMds = s.useMds := by
  cases x <;> rfl
@[simp] theorem State.applyWrites_useMds (s : State) (l : List RegWrite) : (s.applyWrites l).useMds = s.useMds := by
  unfold State.applyWrites
  induction l generalizing s with
  | nil => rfl
  | cons x l ih => rw [List.foldl_cons, ih, State.applyWrite_useMds_frame]
@[simp] theorem State.applyWrite_diag_frame (s : State) (x : RegWrite) : (s.applyWrite x).diag = s.diag := by
  cases x <;> rfl
@[simp] theorem State.applyWrites_diag (s : State) (l : List RegWrite) : (s.applyWrites l).diag = s.diag := by
  unfold State.applyWrites
  induction l generalizing s with
  | nil => rfl
  | cons x l ih => rw [List.foldl_cons, ih, State.applyWrite_diag_frame]
@[simp] theorem State.applyWrite_done_frame (s : State) (x : RegWrite) : (s.applyWrite x).done = s.done := by
  cases x <;> rfl
@[simp] theorem State.applyWrites_done (s : State) (l : List RegWrite) : (s.applyWrites l).done = s.done := by
  unfold State.applyWrites
  induction l generalizing s with
  | nil => rfl
  | cons x l ih => rw [List.foldl_cons, ih, State.applyWrite_done_frame]
@[simp] theorem State.applyWrite_ovf_frame (s : State) (x : RegWrite) : (s.applyWrite x).ovf = s.ovf := by
  cases x <;> rfl
@[simp] theorem State.applyWrites_ovf (s : State) (l : List RegWrite) : (s.applyWrites l).ovf = s.ovf := by
  unfold State.applyWrites
  induction l generalizing s with
  | nil => rfl
  | cons x l ih => rw [List.foldl_cons, ih, State.applyWrite_ovf_frame]
@[simp] theorem State.applyWrite_errcode_frame (s : State) (x : RegWrite) : (s.applyWrite x).errcode = s.errcode := by
  cases x <;> rfl
@[simp] theorem State.applyWrites_errcode (s : State) (l : List RegWrite) : (s.applyWrites l).errcode = s.errcode := by
  unfold State.applyWrites
  induction l generalizing s with
  | nil => rfl
  | cons x l ih => rw [List.foldl_cons, ih, State.applyWrite_errcode_frame]
@[simp] theorem State.applyWrite_outlen_frame (s : State) (x : RegWrite) : (s.applyWrite x).outlen = s.outlen := by
  cases x <;> rfl
@[simp] theorem State.applyWrites_outlen (s : State) (l : List RegWrite) : (s.applyWrites l).outlen = s.outlen := by
  unfold State.applyWrites
  induction l generalizing s with
  | nil => rfl
  | cons x l ih => rw [List.foldl_cons, ih, State.applyWrite_outlen_frame]
@[simp] theorem State.applyWrite_pending_frame (s : State) (x : RegWrite) : (s.applyWrite x).pending = s.pending := by
  cases x <;> rfl
@[simp] theorem State.applyWrites_pending (s : State) (l : List RegWrite) : (s.applyWrites l).pending = s.pending := by
  unfold State.applyWrites
  induction l generalizing s with
  | nil => rfl
  | cons x l ih => rw [List.foldl_cons, ih, State.applyWrite_pending_frame]
@[simp] theorem State.applyWrite_params_frame (s : State) (x : RegWrite) : (s.applyWrite x).params = s.params := by
  cases x <;> rfl
@[simp] theorem State.applyWrites_params (s : State) (l : List RegWrite) : (s.applyWrites l).params = s.params := by
  unfold State.applyWrites
  induction l generalizing s with
  | nil => rfl
  | cons x l ih => rw [List.foldl_cons, ih, State.applyWrite_params_frame]
@[simp] theorem State.applyWrite_inputs_frame (s : State) (x : RegWrite) : (s.applyWrite x).inputs = s.inputs := by
  cases x <;> rfl
@[simp] theorem State.applyWrites_inputs (s : State) (l : List RegWrite) : (s.applyWrites l).inputs = s.inputs := by
  unfold State.applyWrites
  induction l generalizing s with
  | nil => rfl
  | cons x l ih => rw [List.foldl_cons, ih, State.applyWrite_inputs_frame]
@[simp] theorem State.applyWrite_readLog_frame (s : State) (x : RegWrite) : (s.applyWrite x).readLog = s.readLog := by
  cases x <;> rfl
@[simp] theorem State.applyWrites_readLog (s : State) (l : List RegWrite) : (s.applyWrites l).readLog = s.readLog := by
  unfold State.applyWrites
  induction l generalizing s with
  | nil => rfl
  | cons x l ih => rw [List.foldl_cons, ih, State.applyWrite_readLog_frame]
@[simp] theorem State.applyWrite_draws_frame (s : State) (x : RegWrite) : (s.applyWrite x).draws = s.draws := by
  cases x <;> rfl
@[simp] theorem State.applyWrites_draws (s : State) (l : List RegWrite) : (s.applyWrites l).draws = s.draws := by
  unfold State.applyWrites
  induction l generalizing s with
  | nil => rfl
  | cons x l ih => rw [List.foldl_cons, ih, State.applyWrite_draws_frame]

end Sys2Proof.Machine
end

