-- ==== Sys2Proof/Laws/Ops.lean ====
section
/-! SUPPORT. What each shared operation can do, said once. -/

namespace Sys2Proof.Machine

/-! The command cycle. -/

@[simp] theorem State.busy_of_pending_none {s : State} (h : s.pending = none) : s.busy = false := by
  simp [State.busy, h]

@[simp] theorem State.busy_of_pending_some {s : State} {p : Pending} (h : s.pending = some p) : s.busy = true := by
  simp [State.busy, h]

theorem submit_free {s : State} (h : s.pending = none) (p : Pending) : submit s p = .next (s.issued p) := by
  simp [submit, State.busy, h]

theorem submit_busy {s : State} (h : s.pending ≠ none) (p : Pending) : submit s p = .next s.dropped := by
  cases hp : s.pending with
  | none => exact absurd hp h
  | some q => simp [submit, State.busy, hp]

/-- A command word is issued or dropped, and nothing else. -/
theorem submit_cases {s t : State} {p : Pending} (h : submit s p = .next t) :
    (s.pending = none ∧ t = s.issued p) ∨ (s.pending ≠ none ∧ t = s.dropped) := by
  by_cases hp : s.pending = none
  · rw [submit_free hp] at h
    exact .inl ⟨hp, by simpa using h.symm⟩
  · rw [submit_busy hp] at h
    exact .inr ⟨hp, by simpa using h.symm⟩

@[simp] theorem State.complete_free {s : State} (h : s.pending = none) : s.complete = s := by
  simp [State.complete, h]

theorem State.complete_inFlight {s : State} {p : Pending} (h : s.pending = some p) :
    s.complete = (s.applyWrites p.writes).finish p.outcome := by
  simp [State.complete, h]

@[simp] theorem State.complete_issued (s : State) (p : Pending) :
    (s.issued p).complete = ((s.issued p).applyWrites p.writes).finish p.outcome := rfl

@[simp] theorem State.applyWrites_nil (s : State) : s.applyWrites [] = s := rfl

@[simp] theorem State.applyWrites_cons (s : State) (x : RegWrite) (l : List RegWrite) :
    s.applyWrites (x :: l) = (s.applyWrite x).applyWrites l := rfl

/-- The core is free after its turn. -/
@[simp] theorem State.complete_pending (s : State) : s.complete.pending = none := by
  cases h : s.pending with
  | none => simp [State.complete, h]
  | some p => cases ho : p.outcome <;> simp [State.complete, h, State.finish, ho]

/-- The core's turn leaves the inputs. -/
@[simp] theorem State.complete_inputs (s : State) : s.complete.inputs = s.inputs := by
  cases h : s.pending with
  | none => simp [h]
  | some p => rw [State.complete_inFlight h]; cases p.outcome <;> simp

/-- The core's turn leaves the parameters. -/
@[simp] theorem State.complete_params (s : State) : s.complete.params = s.params := by
  cases h : s.pending with
  | none => simp [h]
  | some p => rw [State.complete_inFlight h]; cases p.outcome <;> simp

/-! The checks at the head of a body. -/

theorem requireMstate_of_mem {s : State} {l : List MState} (h : s.mstate ∈ l) (b : Pending) :
    requireMstate s l b = b := if_pos h

theorem requireMstate_of_not_mem {s : State} {l : List MState} (h : s.mstate ∉ l) (b : Pending) :
    requireMstate s l b = errResult .badSequence [] := if_neg h

theorem requireKey_of_valid {s : State} (h : s.keyValid = true) (b : Pending) : requireKey s b = b := if_pos h

theorem requireKey_of_invalid {s : State} (h : s.keyValid = false) (b : Pending) :
    requireKey s b = errResult .notReady [] := by simp [requireKey, h]

theorem requireIv_of_valid {s : State} (h : s.ivValid = true) (b : Pending) : requireIv s b = b := if_pos h

theorem requireIv_of_invalid {s : State} (h : s.ivValid = false) (b : Pending) :
    requireIv s b = errResult .notReady [] := by simp [requireIv, h]

theorem requireRange_of_ok (b : Pending) : requireRange true b = b := rfl

theorem requireRange_of_not_ok (b : Pending) : requireRange false b = errResult .badOperand [] := rfl

theorem requireMdsUnit_of_present {s : State} (h : s.params.hasMds = true) (b : Pending) :
    requireMdsUnit s b = b := if_pos h

theorem requireMdsUnit_of_absent {s : State} (h : s.params.hasMds = false) (b : Pending) :
    requireMdsUnit s b = errResult .illegalCmd [] := by simp [requireMdsUnit, h]

/-! Every command but `RESET` is a body that is submitted. -/

/-- The body of a command; `RESET` has none (R138). -/
def instrBody (s : State) : Instr → Pending
  | .nop => bodyNop
  | .reset => bodyNop
  | .keyLoad len => bodyKeyLoad len s
  | .ivLoad len => bodyIvLoad len s
  | .chainLoad => bodyChainLoad s
  | .encStart => bodyEncStart s
  | .encBlock => bodyEncBlock s
  | .encFinal len => bodyEncFinal len s
  | .decStart => bodyDecStart s
  | .decBlock => bodyDecBlock s
  | .decFinal len => bodyDecFinal len s
  | .abort => bodyAbort
  | .whiten idx => bodyWhiten idx s
  | .ffunc idx => bodyFfunc idx s
  | .feistelFwd => bodyFeistelFwd s
  | .feistelInv => bodyFeistelInv s
  | .gfMul => bodyGfMul s
  | .mdsMul => bodyMdsMul s

theorem exec_eq_submit {i : Instr} (h : i ≠ .reset) (s : State) : exec i s = submit s (instrBody s i) := by
  cases i <;> first | rfl | exact absurd rfl h

/-- On a free core a command other than `RESET` is issued. -/
theorem exec_free {i : Instr} {s : State} (hi : i ≠ .reset) (h : s.pending = none) :
    exec i s = .next (s.issued (instrBody s i)) := by rw [exec_eq_submit hi, submit_free h]

@[simp] theorem exec_reset (s : State) : exec .reset s = .next s.performReset := rfl

/-- What a command word can do: reset the core, be issued, or be dropped. -/
theorem exec_cases {i : Instr} {s t : State} (h : exec i s = .next t) :
    (i = .reset ∧ t = s.performReset) ∨
    (i ≠ .reset ∧ s.pending = none ∧ t = s.issued (instrBody s i)) ∨
    (i ≠ .reset ∧ s.pending ≠ none ∧ t = s.dropped) := by
  by_cases hi : i = .reset
  · subst hi
    exact .inl ⟨rfl, by simpa using h.symm⟩
  · rw [exec_eq_submit hi] at h
    rcases submit_cases h with ⟨hp, rfl⟩ | ⟨hp, rfl⟩
    · exact .inr (.inl ⟨hi, hp, rfl⟩)
    · exact .inr (.inr ⟨hi, hp, rfl⟩)

/-! The bus. -/

theorem memRead_ok {addr : BitVec 12} {size : Nat} (h : badAccess addr size = false) (s : State) :
    memRead addr size s = .next (s.hostRead (decodeAddr addr)) := by simp [memRead, h]

theorem memRead_bad {addr : BitVec 12} {size : Nat} (h : badAccess addr size = true) (s : State) :
    memRead addr size s = .fault (.busError addr size) := by simp [memRead, h]

theorem memWrite_bad {addr : BitVec 12} {size : Nat} (h : badAccess addr size = true) (v : Word) (s : State) :
    memWrite addr size v s = .fault (.busError addr size) := by simp [memWrite, h]

@[simp] theorem memWrite_cmd (w : Word) (s : State) : memWrite cmdAddr 4 w s = writeCmd w s := rfl

/-- What a host write can do. -/
theorem memWrite_cases {addr : BitVec 12} {size : Nat} {v : Word} {s t : State} (h : memWrite addr size v s = .next t) :
    badAccess addr size = false ∧
      ((decodeAddr addr = .cmd ∧ writeCmd v s = .next t) ∨
       (decodeAddr addr ≠ .cmd ∧ t = s.writeWindow (decodeAddr addr) v)) := by
  cases hb : badAccess addr size with
  | true => simp [memWrite, hb] at h
  | false =>
    refine ⟨rfl, ?_⟩
    by_cases hc : decodeAddr addr = .cmd
    · exact .inl ⟨hc, by simpa [memWrite, hb, hc] using h⟩
    · exact .inr ⟨hc, by simpa [memWrite, hb, hc] using h.symm⟩

/-- What a write of a word to `CMD` can do. -/
theorem writeCmd_cases {w : Word} {s t : State} (h : writeCmd w s = .next t) :
    t = s.performReset ∨ (s.pending = none ∧ ∃ p, t = s.issued p) ∨ (s.pending ≠ none ∧ t = s.dropped) := by
  unfold writeCmd at h
  split at h
  · rcases exec_cases h with ⟨-, rfl⟩ | ⟨-, hp, rfl⟩ | ⟨-, hp, rfl⟩
    · exact .inl rfl
    · exact .inr (.inl ⟨hp, _, rfl⟩)
    · exact .inr (.inr ⟨hp, rfl⟩)
  · rcases submit_cases h with ⟨hp, rfl⟩ | ⟨hp, rfl⟩
    · exact .inr (.inl ⟨hp, _, rfl⟩)
    · exact .inr (.inr ⟨hp, rfl⟩)

/-! The step. -/

theorem step_idle {s : State} (h : s.inputs = []) : step s = .next s.complete := by
  simp [step, cycleStep, h]

theorem step_input {s : State} {e : Input} {rest : List Input} (h : s.inputs = e :: rest) :
    step s = takeInput e { s with inputs := rest } := by
  simp [step, cycleStep, h]

theorem size_of_not_badAccess {addr : BitVec 12} {size : Nat} (h : badAccess addr size = false) : size = 4 := by
  simp [badAccess] at h
  exact h.1

/-- `CMD` has one aligned address (R71). -/
theorem eq_cmdAddr_of_decodeAddr {addr : BitVec 12} (h : badAccess addr 4 = false) (hc : decodeAddr addr = .cmd) :
    addr = cmdAddr := by
  revert addr
  decide +kernel

/-- What a step that answers a next state does, by its input. -/
theorem step_cases {s t : State} (h : step s = .next t) :
    (s.inputs = [] ∧ t = s.complete) ∨
    ∃ rest, ∃ u : State, u = { s with inputs := rest } ∧
      ((s.inputs = .tick :: rest ∧ t = u.complete) ∨
       (s.inputs = .rstN :: rest ∧ t = u.performReset) ∨
       (∃ a, s.inputs = .read a 4 :: rest ∧ badAccess a 4 = false ∧ t = u.hostRead (decodeAddr a)) ∨
       (∃ a v, s.inputs = .write a 4 v :: rest ∧ badAccess a 4 = false ∧ decodeAddr a ≠ .cmd ∧
          t = u.writeWindow (decodeAddr a) v) ∨
       (∃ w, s.inputs = .write cmdAddr 4 w :: rest ∧ writeCmd w u = .next t)) := by
  cases hi : s.inputs with
  | nil =>
    rw [step_idle hi] at h
    exact .inl ⟨rfl, by injection h with h; exact h.symm⟩
  | cons e rest =>
    rw [step_input hi] at h
    refine .inr ⟨rest, _, rfl, ?_⟩
    cases e with
    | tick => exact .inl ⟨rfl, by injection h with h; exact h.symm⟩
    | rstN => exact .inr (.inl ⟨rfl, by injection h with h; exact h.symm⟩)
    | read addr size =>
      cases hb : badAccess addr size with
      | true => simp [takeInput, memRead, hb] at h
      | false =>
        obtain rfl := size_of_not_badAccess hb
        rw [takeInput, memRead_ok hb] at h
        exact .inr (.inr (.inl ⟨addr, rfl, hb, by injection h with h; exact h.symm⟩))
    | write addr size v =>
      rcases memWrite_cases h with ⟨hb, hw⟩
      obtain rfl := size_of_not_badAccess hb
      rcases hw with ⟨hc, hw⟩ | ⟨hc, rfl⟩
      · obtain rfl := eq_cmdAddr_of_decodeAddr hb hc
        exact .inr (.inr (.inr (.inr ⟨v, rfl, hw⟩)))
      · exact .inr (.inr (.inr (.inl ⟨addr, v, rfl, hb, hc, rfl⟩)))

/-- The next step of a machine whose next access writes a word to `CMD`. -/
theorem step_cmd {s : State} {w : Word} {rest : List Input} (h : s.inputs = .write cmdAddr 4 w :: rest) :
    step s = writeCmd w { s with inputs := rest } := by
  rw [step_input h]
  rfl

end Sys2Proof.Machine
end

