-- ==== Sys2Proof/Laws/PerInstr.lean ====
section
/-! SUPPORT. The family of statements about a command as syntax, proved per constructor. -/

namespace Sys2Proof.Laws.EncodedFields

/-- The low byte of a well-formed command's word is its opcode, and its reserved fields are 0 (R101, R106). -/
def Statement (i : Instr) : Prop :=
  i.wellFormed = true →
    opcField (encode i) = BitVec.ofNat 8 i.opcode ∧ rsv0Field (encode i) = 0#3 ∧ rsv1Field (encode i) = 0#10

/-- What the family says of the word made of these fields. -/
abbrev Fields (opc len idx : Nat) : Prop :=
  opcField (commandWord opc len idx) = BitVec.ofNat 8 opc ∧ rsv0Field (commandWord opc len idx) = 0#3 ∧
    rsv1Field (commandWord opc len idx) = 0#10

/-- The words of form N. -/
theorem of_none : ∀ opc ∈ [0x00, 0x01, 0x12, 0x20, 0x21, 0x28, 0x29, 0x2F, 0x32, 0x33, 0x40, 0x41],
    Fields opc 0 0 := by decide +kernel

/-- The words of form L. -/
theorem of_len : ∀ opc ∈ [0x10, 0x11, 0x22, 0x2A], ∀ len : Fin 32, Fields opc len 0 := by decide +kernel

/-- The words of form I. -/
theorem of_idx : ∀ opc ∈ [0x30, 0x31], ∀ idx : Fin 64, Fields opc 0 idx := by decide +kernel

theorem nop : Statement .nop := fun _ => of_none 0x00 (by decide)
theorem reset : Statement .reset := fun _ => of_none 0x01 (by decide)
theorem keyLoad (len : Nat) : Statement (.keyLoad len) := fun h => of_len 0x10 (by decide) ⟨len, of_decide_eq_true h⟩
theorem ivLoad (len : Nat) : Statement (.ivLoad len) := fun h => of_len 0x11 (by decide) ⟨len, of_decide_eq_true h⟩
theorem chainLoad : Statement .chainLoad := fun _ => of_none 0x12 (by decide)
theorem encStart : Statement .encStart := fun _ => of_none 0x20 (by decide)
theorem encBlock : Statement .encBlock := fun _ => of_none 0x21 (by decide)
theorem encFinal (len : Nat) : Statement (.encFinal len) := fun h => of_len 0x22 (by decide) ⟨len, of_decide_eq_true h⟩
theorem decStart : Statement .decStart := fun _ => of_none 0x28 (by decide)
theorem decBlock : Statement .decBlock := fun _ => of_none 0x29 (by decide)
theorem decFinal (len : Nat) : Statement (.decFinal len) := fun h => of_len 0x2A (by decide) ⟨len, of_decide_eq_true h⟩
theorem abort : Statement .abort := fun _ => of_none 0x2F (by decide)
theorem whiten (idx : Nat) : Statement (.whiten idx) := fun h => of_idx 0x30 (by decide) ⟨idx, of_decide_eq_true h⟩
theorem ffunc (idx : Nat) : Statement (.ffunc idx) := fun h => of_idx 0x31 (by decide) ⟨idx, of_decide_eq_true h⟩
theorem feistelFwd : Statement .feistelFwd := fun _ => of_none 0x32 (by decide)
theorem feistelInv : Statement .feistelInv := fun _ => of_none 0x33 (by decide)
theorem gfMul : Statement .gfMul := fun _ => of_none 0x40 (by decide)
theorem mdsMul : Statement .mdsMul := fun _ => of_none 0x41 (by decide)

end Sys2Proof.Laws.EncodedFields
end

