-- ==== Sys2Proof/Laws/Window.lean ====
section
/-! SUPPORT. The window: the bits of the control and status words, and when a read is a draw. -/

namespace Sys2Proof.Machine

/-- `STATUS` bit by bit (R44). -/
theorem getLsbD_packStatus (mmds mpad : BitVec 1) (outlen : BitVec 5) (errcode : BitVec 4) (mstate : BitVec 2)
    (ivValid keyValid ovf done busy : BitVec 1) (i : Nat) (h : i < 32) :
    (packStatus mmds mpad outlen errcode mstate ivValid keyValid ovf done busy).getLsbD i =
      if i = 0 then busy.getLsbD 0 else if i = 1 then done.getLsbD 0 else if i = 2 then ovf.getLsbD 0
      else if i = 3 then keyValid.getLsbD 0 else if i = 4 then ivValid.getLsbD 0
      else if i < 7 then mstate.getLsbD (i - 5) else if i = 7 then false
      else if i < 12 then errcode.getLsbD (i - 8) else if i < 16 then false
      else if i < 21 then outlen.getLsbD (i - 16) else if i = 21 then mpad.getLsbD 0
      else if i = 22 then mmds.getLsbD 0 else false := by
  unfold packStatus
  show BitVec.getLsbD (w := 9 + 1 + 1 + 5 + 4 + 4 + 1 + 2 + 1 + 1 + 1 + 1 + 1) _ i = _
  simp only [BitVec.getLsbD_append]
  interval_cases i <;> simp

/-- `CTRL` bit by bit (R40). -/
theorem State.getLsbD_ctrlWord (s : State) (i : Nat) (h : i < 32) :
    s.ctrlWord.getLsbD i =
      if i = 0 then s.irqEn else if i = 1 then s.padAlways else if i = 2 then s.ctrlUseMds
      else if i = 3 then s.diag else false := by
  unfold State.ctrlWord bit
  show BitVec.getLsbD (w := 28 + 1 + 1 + 1 + 1) _ i = _
  simp only [BitVec.getLsbD_append]
  interval_cases i <;> simp

/-- No read of a free core is a draw (R136). -/
theorem readsDraw_free {s : State} (h : s.pending = none) (t : WindowReg) : s.readsDraw t = false := by
  cases t <;> simp [State.readsDraw, WindowReg.reg, State.inFlight, h]

/-- A free core shows the value it holds, the gates of R82 applied. -/
theorem readValue_free {s : State} (h : s.pending = none) (t : WindowReg) : s.readValue t = s.windowValue t := by
  simp [State.readValue, readsDraw_free h]

/-- `STATUS` of a busy core is always a draw (R136). -/
theorem readsDraw_status {s : State} (h : s.pending ≠ none) : s.readsDraw .status = true := by
  cases hp : s.pending with
  | none => exact absurd hp h
  | some p => simp [State.readsDraw, WindowReg.reg, State.inFlight, hp, Pending.writeset]

/-- Which other reads of a busy core are draws (R136). -/
theorem readsDraw_iff {s : State} {p : Pending} (h : s.pending = some p) {t : WindowReg} (ht : t ≠ .status) :
    s.readsDraw t = true ↔ p.changes t := by
  cases t <;> simp [State.readsDraw, WindowReg.reg, State.inFlight, h, Pending.writeset, Pending.changes]
  case status => exact ht rfl
  all_goals first
    | (intro x _
       cases x <;> simp [RegWrite.reg])
    | (constructor
       · rintro ⟨x, h1, h2⟩
         cases x <;> simp [RegWrite.reg] at h2
         exact ⟨_, h1⟩
       · rintro ⟨b, h⟩
         exact ⟨_, h, rfl⟩)

/-- A register that no record writes is never a draw (R136). -/
theorem readsDraw_of_unwritten (s : State) {t : WindowReg} (ht : t ≠ .status) (h : ∀ p : Pending, ¬ p.changes t) :
    s.readsDraw t = false := by
  cases hd : s.readsDraw t with
  | false => rfl
  | true =>
    cases hp : s.pending with
    | none => rw [readsDraw_free hp] at hd; exact absurd hd (by decide)
    | some p => exact absurd ((readsDraw_iff hp ht).1 hd) (h p)

/-- What a host read does to the state. -/
theorem hostRead_eq (s : State) (t : WindowReg) :
    s.hostRead t = { s with
      readLog := s.readLog ++ [s.readValue t], draws := s.draws + if s.readsDraw t then 1 else 0 } := by
  cases h : s.readsDraw t <;> simp [State.hostRead, h]

/-- Only `CTRL`, `STATUS` and `DIN` take a host write (R75, R77). -/
theorem writeWindow_cases (s : State) (t : WindowReg) (v : Word) :
    (t = .ctrl ∧ s.writeWindow t v = s.writeCtrl v) ∨ (t = .status ∧ s.writeWindow t v = s.writeStatus v) ∨
    (∃ n, t = .din n ∧ s.writeWindow t v = { s with din := setBlockWord s.din n v }) ∨ s.writeWindow t v = s := by
  cases t <;> simp [State.writeWindow]

/-- The aligned addresses of `STATUS` (R71). -/
theorem eq_statusAddr_of_decodeAddr {addr : BitVec 12} (h : badAccess addr 4 = false)
    (hs : decodeAddr addr = .status) : addr = 0x008#12 := by
  revert addr
  decide +kernel

end Sys2Proof.Machine
end

