-- ==== Sys2Proof/Laws/Runs.lean ====
section
/-! SUPPORT. Runs of a host program: when the overrun flag changes, and what the end of a run is. -/

namespace Sys2Proof.Machine

@[simp] theorem Run.launch_state (s : State) : (Run.launch s).state = { s with readLog := [] } := rfl
@[simp] theorem Run.launch_unchecked (s : State) : (Run.launch s).unchecked = false := rfl
@[simp] theorem Run.launch_lost (s : State) : (Run.launch s).lost = false := rfl
@[simp] theorem Run.advance_state (r : Run) (t : State) : (r.advance t).state = t := rfl
@[simp] theorem Run.advance_unchecked (r : Run) (t : State) :
    (r.advance t).unchecked = (r.state.overruns || (r.unchecked && !r.state.checksOvf)) := rfl

@[simp] theorem Run.advance_lost (r : Run) (t : State) : (r.advance t).lost = (r.lost || (r.unchecked && !t.ovf)) := rfl

/-- What the point at which a run ends is. -/
theorem Run.ended_iff (r : Run) : r.ended = true ↔ r.state.ended = true ∧ r.unchecked = false ∧ r.lost = false := by
  simp [Run.ended, and_assoc]

/-- Which inputs are an overrun (R351). -/
theorem overruns_iff (s : State) :
    s.overruns = true ↔
      s.pending ≠ none ∧ ∃ w rest, s.inputs = .write cmdAddr 4 w :: rest ∧ w ≠ encode .reset := by
  unfold State.overruns
  split
  · next addr size w l h =>
    have hb : s.busy = true ↔ s.pending ≠ none := by simp [State.busy, Option.isSome_iff_ne_none]
    simp only [h, Bool.and_eq_true, decide_eq_true_eq, hb]
    constructor
    · rintro ⟨⟨rfl, rfl, hw⟩, hp⟩
      exact ⟨hp, w, l, rfl, hw⟩
    · rintro ⟨hp, w', l', e, hw⟩
      injection e with e _
      injection e with e1 e2 e3
      exact ⟨⟨e1, e2, e3 ▸ hw⟩, hp⟩
  · next h =>
    refine ⟨fun hf => absurd hf (by decide), ?_⟩
    rintro ⟨_, w, l, e, _⟩
    exact absurd e (h _ _ _ _)

/-- A run that has no statement left makes no overrun. -/
theorem overruns_of_hostDone {s : State} (h : s.hostDone = true) : s.overruns = false := by
  cases ho : s.overruns with
  | false => rfl
  | true =>
    obtain ⟨-, w, l, e, -⟩ := (overruns_iff s).1 ho
    simp [State.hostDone, e, Input.isAccess] at h

/-- Once the host has executed its last statement it has executed it. -/
theorem hostDone_of_step {s t : State} (hd : s.hostDone = true) (h : step s = .next t) : t.hostDone = true := by
  unfold State.hostDone at hd ⊢
  rcases step_cases h with ⟨_, rfl⟩ | ⟨rest, u, rfl, ⟨hi, rfl⟩ | ⟨hi, rfl⟩ | ⟨a, hi, _⟩ | ⟨a, v, hi, _⟩ | ⟨w, hi, _⟩⟩
  · simpa using hd
  · simpa [hi, Input.isAccess] using hd
  · simpa [hi, Input.isAccess] using hd
  · simp [hi, Input.isAccess] at hd
  · simp [hi, Input.isAccess] at hd
  · simp [hi, Input.isAccess] at hd

/-- What the end of a run is: the host has executed its last statement, no command is in flight, and the state was
reached by steps that answer a next state (R362). -/
theorem Run.toEnd_spec {k : Nat} : ∀ {r : Run} {e : State}, r.toEnd k = some e →
    e.ended = true ∧ ∃ j, j ≤ k ∧ runSteps j r.state = .next e := by
  induction k with
  | zero =>
    intro r e h
    unfold Run.toEnd at h
    split at h
    · next he =>
      injection h with h
      exact ⟨h ▸ ((Run.ended_iff r).1 he).1, 0, Nat.le_refl 0, h ▸ rfl⟩
    · exact absurd h (by simp)
  | succ k ih =>
    intro r e h
    unfold Run.toEnd at h
    split at h
    · next he =>
      injection h with h
      exact ⟨h ▸ ((Run.ended_iff r).1 he).1, 0, Nat.zero_le _, h ▸ rfl⟩
    · split at h
      · next t ht =>
        obtain ⟨h1, j, hj, h2⟩ := ih h
        refine ⟨h1, j + 1, Nat.succ_le_succ hj, ?_⟩
        rw [runSteps, ht]
        exact h2
      · exact absurd h (by simp)
      · exact absurd h (by simp)

/-- An overrun whose `OVF` was cleared unread: the run has no end (I16, log entry 18). -/
theorem Run.toEnd_lost {k : Nat} : ∀ {r : Run}, r.lost = true → r.toEnd k = none := by
  induction k with
  | zero => intro r hl; simp [Run.toEnd, Run.ended, hl]
  | succ k ih =>
    intro r hl
    unfold Run.toEnd
    rw [if_neg (by simp [Run.ended, hl])]
    split
    · exact ih (by simp [hl])
    · rfl
    · rfl

/-- An overrun that the host left unchecked when it executed its last statement: the run has no end
(R351, R362, I16). -/
theorem Run.toEnd_unchecked {k : Nat} : ∀ {r : Run}, r.state.hostDone = true → r.unchecked = true →
    r.toEnd k = none := by
  induction k with
  | zero => intro r _ hu; simp [Run.toEnd, Run.ended, hu]
  | succ k ih =>
    intro r hd hu
    unfold Run.toEnd
    rw [if_neg (by simp [Run.ended, hu])]
    split
    · next t ht =>
      have hc : r.state.checksOvf = false := by
        unfold State.checksOvf
        split
        · next h => simp [State.hostDone, h, Input.isAccess] at hd
        · rfl
      exact ih (hostDone_of_step hd ht) (by simp [hu, hc])
    · rfl
    · rfl

end Sys2Proof.Machine
end

