-- ==== Sys2Proof/Tests/Slice0.lean ====
section
/-! SUPPORT. Tests: the operand check, the decoder, the vectors of `spec/95_test_vectors.md`, and for every
obligation with hypotheses a state that meets them. The matrix `MILL` is the illustrative one of that file. -/

namespace Sys2Proof.Tests

open Sys2Proof Sys2Proof.Machine

-- One thread for all of these, so that the kernel's work on them does not pile up.
set_option Elab.async false

/-! The operand check refuses what its fields cannot hold (R101). -/

theorem test_wellFormed_refuses_len_32 :
    Instr.wellFormed (.keyLoad 32) = false ∧ Instr.wellFormed (.ivLoad 32) = false ∧
    Instr.wellFormed (.encFinal 32) = false ∧ Instr.wellFormed (.decFinal 32) = false := by decide

theorem test_wellFormed_refuses_idx_64 :
    Instr.wellFormed (.whiten 64) = false ∧ Instr.wellFormed (.ffunc 64) = false := by decide

/-! The words of the opcode map (R101, R104), written out as `RSV1 | IDX | RSV0 | LEN | OPC`. -/

theorem test_decode_control :
    decode 0b0000000000_000000_000_00000_00000000#32 = .ok .nop ∧
    decode 0b0000000000_000000_000_00000_00000001#32 = .ok .reset := ⟨rfl, rfl⟩

theorem test_decode_key_setup :
    decode 0b0000000000_000000_000_10001_00010000#32 = .ok (.keyLoad 17) ∧
    decode 0b0000000000_000000_000_01111_00010001#32 = .ok (.ivLoad 15) ∧
    decode 0b0000000000_000000_000_00000_00010010#32 = .ok .chainLoad := ⟨rfl, rfl, rfl⟩

theorem test_decode_encryption :
    decode 0b0000000000_000000_000_00000_00100000#32 = .ok .encStart ∧
    decode 0b0000000000_000000_000_00000_00100001#32 = .ok .encBlock ∧
    decode 0b0000000000_000000_000_01011_00100010#32 = .ok (.encFinal 11) := ⟨rfl, rfl, rfl⟩

theorem test_decode_decryption :
    decode 0b0000000000_000000_000_00000_00101000#32 = .ok .decStart ∧
    decode 0b0000000000_000000_000_00000_00101001#32 = .ok .decBlock ∧
    decode 0b0000000000_000000_000_11111_00101010#32 = .ok (.decFinal 31) ∧
    decode 0b0000000000_000000_000_00000_00101111#32 = .ok .abort := ⟨rfl, rfl, rfl, rfl⟩

theorem test_decode_datapath :
    decode 0b0000000000_011000_000_00000_00110000#32 = .ok (.whiten 24) ∧
    decode 0b0000000000_100111_000_00000_00110001#32 = .ok (.ffunc 39) ∧
    decode 0b0000000000_000000_000_00000_00110010#32 = .ok .feistelFwd ∧
    decode 0b0000000000_000000_000_00000_00110011#32 = .ok .feistelInv := ⟨rfl, rfl, rfl, rfl⟩

theorem test_decode_diffusion :
    decode 0b0000000000_000000_000_00000_01000000#32 = .ok .gfMul ∧
    decode 0b0000000000_000000_000_00000_01000001#32 = .ok .mdsMul := ⟨rfl, rfl⟩

/-- The illegal words of vector table 2.5.1, each by the name of its case of R106. -/
theorem test_decode_illegal :
    decode 0x00000002#32 = .error .unusedOpcode ∧ decode 0xFFFFFFFF#32 = .error .unusedOpcode ∧
    decode 0x00002010#32 = .error .reservedBits ∧ decode 0x00400030#32 = .error .reservedBits ∧
    decode 0x00010000#32 = .error .unusedField ∧ decode 0x00011010#32 = .error .unusedField ∧
    decode 0x00000141#32 = .error .unusedField ∧ decode 0x00000101#32 = .error .unusedField :=
  ⟨rfl, rfl, rfl, rfl, rfl, rfl, rfl, rfl⟩

theorem test_probes_of_the_decoder :
    decodeTableWord 32 0x00180030 = some (.whiten 24) ∧ decodeTableWord 32 0x00000002 = none := ⟨rfl, rfl⟩

/-! The vectors of Parts 1 and 2. -/

/-- `MILL`: 2 where the column is the row, 3 in the column after it (cyclically), 1 elsewhere. -/
def mill : MdsMatrix :=
  Vector.ofFn fun row => Vector.ofFn fun col => if col = row then 0x02 else if col = row + 1 then 0x03 else 0x01

/-- `K1`. -/
def k1 : Block := #v[0x74, 0x65, 0x73, 0x74, 0x6B, 0x65, 0x79, 0x31, 0x32, 0x33, 0x34, 0x35, 0x36, 0x37, 0x38, 0x39]

/-- `IV1`. -/
def iv1 : Block := #v[0x30, 0x31, 0x32, 0x33, 0x34, 0x35, 0x36, 0x37, 0x38, 0x39, 0x61, 0x62, 0x63, 0x64, 0x65, 0x66]

/-- `A`. -/
def blockA : Block :=
  #v[0x41, 0x42, 0x43, 0x44, 0x45, 0x46, 0x47, 0x48, 0x49, 0x4A, 0x4B, 0x4C, 0x4D, 0x4E, 0x4F, 0x50]

/-- `C1` in mode `ZERO`. -/
def blockC1 : Block :=
  #v[0x44, 0x45, 0x0B, 0xC6, 0xB6, 0x82, 0x92, 0x8E, 0x6D, 0x37, 0x87, 0xFF, 0xF7, 0x68, 0xB6, 0x37]

/-- "HELLO WORLD" and five zero bytes. -/
def hello : Block := #v[0x48, 0x45, 0x4C, 0x4C, 0x4F, 0x20, 0x57, 0x4F, 0x52, 0x4C, 0x44, 0, 0, 0, 0, 0]

/-- The ciphertext of "HELLO WORLD" in mode `ZERO`. -/
def helloC : Block :=
  #v[0x5F, 0x43, 0x04, 0x8F, 0xFE, 0xC9, 0xD8, 0xDB, 0x7F, 0x36, 0x87, 0xBE, 0xB5, 0x45, 0xEC, 0x65]

/-- `I16`. -/
def i16 : Block := #v[0, 1, 2, 3, 4, 5, 6, 7, 8, 9, 10, 11, 12, 13, 14, 15]

/-- After reset, with `MDS_M = MILL` and `din` in `DIN`. -/
def fresh (din : Block) : State := { State.reset with params := ⟨true, mill, .lookup⟩, din := din }

/-- With key `K1` and IV `IV1` loaded. -/
def keyed (din : Block) : State :=
  { fresh din with
    key := k1, sbox := generateSBoxes k1, sk := keySchedule k1, keyValid := true, iv := iv1, ivValid := true }

/-- In a message just started with them, padding `ALWAYS`, in mode `ZERO`. -/
def inMessage (m : MState) (din : Block) : State :=
  { keyed din with params := ⟨true, mill, .zero⟩, mstate := m, mpad := true, chain := iv1 }

/-- A command issued and completed. -/
def run (i : Instr) (s : State) : State :=
  match exec i s with
  | .next t => t.complete
  | _ => s

/-- With a `NOP` in flight. -/
def busyNop : State := (keyed i16).issued bodyNop

/-- A state whose host has these accesses to make. -/
def withInputs (s : State) (l : List Input) : State := { s with inputs := l }

/-- Reset input and `RESET`: STATUS 0 and PADMODE 1 (R60). -/
theorem test_reset : (run .reset busyNop).statusWord = 0x00000000#32 ∧ (run .reset busyNop).ctrlWord = 0x00000002#32 := by
  decide +kernel

/-- 2.5.2: `EXEC NOP` after reset. -/
theorem test_nop : (run .nop (fresh zeroBlock)).statusWord = 0x00000002#32 := by decide +kernel

/-- 2.1.1. -/
theorem test_keyLoad_cuts :
    (run (.keyLoad 4) (fresh k1)).key = #v[0x74, 0x65, 0x73, 0x74, 0, 0, 0, 0, 0, 0, 0, 0, 0, 0, 0, 0] := by
  decide +kernel

/-- 2.1.1, 2.1.2, 2.1.3. -/
theorem test_keyLoad_tables :
    let s := run (.keyLoad 17) (fresh k1)
    s.key = k1 ∧ sboxAt s.sbox 2 0x10 = 0x63 ∧ sboxAt s.sbox 3 0xFF = 0x8C ∧ subkeyAt s.sk 1 = 0x9E377A1E ∧
      subkeyAt s.sk 2 = 0x3C6EF3E5 ∧ subkeyAt s.sk 39 = 0x1A738B60 ∧ s.statusWord = 0x0000000A#32 := by
  decide +kernel

/-- 2.1.4. -/
theorem test_ivLoad_takes_16 :
    let s := run (.ivLoad 16) (fresh iv1)
    s.windowValue (.iv 0) = 0x33323130#32 ∧ s.ivValid = true ∧ s.errcode = none := by decide +kernel

/-- 2.1.4: `IV` keeps its bytes. -/
theorem test_ivLoad_refuses_31 :
    let s := run (.ivLoad 31) (keyed i16)
    s.errcode = some .invalidIvLength ∧ s.ivValid = false ∧ s.iv = iv1 := by decide +kernel

/-- 2.1.4: with no key. -/
theorem test_chainLoad : (run .chainLoad (fresh blockC1)).chain = blockC1 := by decide +kernel

/-- Program P1: `STATUS = 0x0020003A`. -/
theorem test_encStart :
    (run .encStart (keyed i16)).statusWord = 0x0020003A#32 ∧ (run .encStart (keyed i16)).chain = iv1 := by
  decide +kernel

/-- 1.2: `C1`. -/
theorem test_encBlock :
    (run .encBlock (inMessage .enc blockA)).dout = blockC1 ∧ (run .encBlock (inMessage .enc blockA)).chain = blockC1 := by
  decide +kernel

/-- 1.1: the ciphertext of "HELLO WORLD" and the final `STATUS` of program P1's encryption. -/
theorem test_encFinal_hello :
    (run (.encFinal 11) (inMessage .enc hello)).dout = helloC ∧
    (run (.encFinal 11) (inMessage .enc hello)).statusWord = 0x0010001A#32 := by decide +kernel

/-- Program P3: `ENC_FINAL 16` in padding mode `ALWAYS` (R230). -/
theorem test_encFinal_16_always : (run (.encFinal 16) (inMessage .enc hello)).statusWord = 0x0020023A#32 := by
  decide +kernel

/-- Program P1: `STATUS = 0x0020005A`. -/
theorem test_decStart : (run .decStart { keyed i16 with outlen := 16 }).statusWord = 0x0020005A#32 := by decide +kernel

/-- Program P2: `C1` decrypts to `A`. -/
theorem test_decBlock :
    (run .decBlock (inMessage .dec blockC1)).dout = blockA ∧ (run .decBlock (inMessage .dec blockC1)).chain = blockC1 := by
  decide +kernel

/-- 1.1: eleven bytes, the others 0. -/
theorem test_decFinal_hello :
    (run (.decFinal 16) (inMessage .dec helloC)).dout = hello ∧
    (run (.decFinal 16) (inMessage .dec helloC)).statusWord = 0x000B001A#32 := by decide +kernel

/-- 1.3: `STATUS = 0x0000061A` and `CHAIN` unchanged. -/
theorem test_decFinal_15 :
    (run (.decFinal 15) (inMessage .dec helloC)).statusWord = 0x0000061A#32 ∧
    (run (.decFinal 15) (inMessage .dec helloC)).chain = iv1 := by decide +kernel

/-- Program P5: `STATUS = 0x0000001A`. -/
theorem test_abort : (run .abort (inMessage .enc i16)).statusWord = 0x0000001A#32 := by decide +kernel

/-- 2.3.1. -/
theorem test_whiten_24 :
    (run (.whiten 24) (keyed i16)).dout =
      #v[0x8A, 0x45, 0xFC, 0xBB, 0x76, 0x29, 0xE0, 0xA7, 0x9C, 0x37, 0x0F, 0xB4, 0x63, 0x2F, 0xE1, 0x6F] := by
  decide +kernel

/-- 2.3.1. -/
theorem test_whiten_25 : (run (.whiten 25) (keyed i16)).errcode = some .badOperand := by decide +kernel

/-- 2.3.3, mode `LOOKUP`. -/
theorem test_ffunc_39 :
    (run (.ffunc 39) (keyed i16)).dout =
      #v[0x14, 0x05, 0x13, 0x14, 0x0B, 0x05, 0x19, 0x51, 0x52, 0x53, 0x54, 0x55, 0x56, 0x57, 0x58, 0x59] := by
  decide +kernel

/-- 2.3.3, mode `ZERO`. -/
theorem test_ffunc_zero_mode :
    (run (.ffunc 39) { keyed i16 with params := ⟨true, mill, .zero⟩ }).dout =
      #v[0x60, 0x61, 0x62, 0x63, 0x64, 0x65, 0x66, 0x67, 0x68, 0x69, 0x6A, 0x6B, 0x6C, 0x6D, 0x6E, 0x6F] := by
  decide +kernel

/-- 2.3.4, mode `LOOKUP`: the halves after rounds 0 and 1. -/
theorem test_rounds_lookup :
    encRoundsTo (keyed i16).cipher false 2 (leftHalf i16, rightHalf i16) =
      (#v[0x46, 0x46, 0x42, 0x42, 0x46, 0x46, 0x4A, 0x4A],
        #v[0x24, 0x25, 0x7F, 0x7E, 0x20, 0x21, 0x26, 0x27]) := by
  decide +kernel

/-- 2.3.4, mode `ZERO`. -/
theorem test_feistelFwd :
    (run .feistelFwd { keyed i16 with params := ⟨true, mill, .zero⟩ }).dout =
      #v[0x88, 0x89, 0x8A, 0x8B, 0x8C, 0x8D, 0x8E, 0x8F, 0x09, 0x09, 0x09, 0x09, 0x09, 0x09, 0x09, 0x09] := by
  decide +kernel

/-- 2.3.5, mode `ZERO`, with diffusion. -/
theorem test_feistelFwd_diffusion :
    (run .feistelFwd { keyed i16 with params := ⟨true, mill, .zero⟩, useMds := true }).dout =
      #v[0x8A, 0x8F, 0x88, 0x8D, 0x8E, 0x8B, 0x8C, 0x89, 0x0B, 0x0F, 0x0B, 0x0F, 0x0B, 0x0F, 0x0B, 0x0F] := by
  decide +kernel

/-- 2.3.5, mode `ZERO`. -/
theorem test_feistelInv :
    (run .feistelInv { keyed i16 with params := ⟨true, mill, .zero⟩ }).dout =
      #v[0x89, 0x89, 0x89, 0x89, 0x89, 0x89, 0x89, 0x89, 0x80, 0x81, 0x82, 0x83, 0x84, 0x85, 0x86, 0x87] := by
  decide +kernel

/-- 2.2.1. -/
theorem test_gfMul_products :
    gfMul 0x57 0x83 = 0xC1 ∧ gfMul 0x57 0x13 = 0xFE ∧ gfMul 0x80 0x02 = 0x1B ∧ gfMul 0xFF 0xFF = 0x13 ∧
    gfMul 0x80 0x80 = 0x9A ∧ gfMul 0x02 0x87 = 0x15 := by decide +kernel

/-- Program P5: `STATUS = 0x0001001A`, `DOUT0 = 0x000000C1`. -/
theorem test_gfMul_command :
    let s := run .gfMul (keyed #v[0x57, 0x83, 0, 0, 0, 0, 0, 0, 0, 0, 0, 0, 0, 0, 0, 0])
    s.statusWord = 0x0001001A#32 ∧ s.windowValue (.dout 0) = 0x000000C1#32 := by decide +kernel

/-- 2.2.2. -/
theorem test_mdsMul :
    (run .mdsMul (fresh #v[0xDB, 0x13, 0x53, 0x45, 0xF2, 0x0A, 0x22, 0x5C, 0xD4, 0xD4, 0xD4, 0xD5, 0x2D, 0x26, 0x31, 0x4C])).dout =
      #v[0x8E, 0x4D, 0xA1, 0xBC, 0x9F, 0xDC, 0x58, 0x9D, 0xD5, 0xD5, 0xD7, 0xD6, 0x4D, 0x7E, 0xBD, 0xF8] := by
  decide +kernel

/-- Program P8's case: without the unit. -/
theorem test_mdsMul_without_the_unit :
    (run .mdsMul { fresh i16 with params := ⟨false, mill, .lookup⟩ }).errcode = some .illegalCmd := by decide +kernel

/-- R86: the byte lanes of a block. -/
theorem test_byte_lanes :
    blockWord #v[0x48, 0x45, 0x4C, 0x4C, 0x4F, 0x20, 0x57, 0x4F, 0x52, 0x4C, 0x44, 5, 5, 5, 5, 5] 2 = 0x05444C52#32 := by
  decide +kernel

/-- 2.1.2 and program P9: the windows and the constants. -/
theorem test_windows :
    let s := { keyed i16 with diag := true }
    s.windowValue (.sbox 0) = 0x77716474#32 ∧ s.windowValue (.sbox 66) = 0x3D3F3D3B#32 ∧
    s.windowValue (.sbox 255) = 0x8C9B89C5#32 ∧ s.windowValue (.subkey 39) = 0x1A738B60#32 ∧
    s.windowValue (.mdsm 0) = 0x01010302#32 ∧ s.windowValue .cap = 0x10102801#32 := by decide +kernel

/-- 2.5.2: all ones written to `CTRL`. -/
theorem test_ctrl_all_ones :
    ((fresh i16).writeCtrl 0xFFFFFFFF#32).ctrlWord = 0x0000000F#32 ∧
    (({ fresh i16 with params := ⟨false, mill, .lookup⟩ } : State).writeCtrl 0xFFFFFFFF#32).ctrlWord = 0x0000000B#32 := by
  decide +kernel

/-- The corners of `MILL` as `MDSM0` and `MDSM3` show it. -/
theorem test_mill : (fresh i16).mdsmWord 0 = 0x01010302#32 ∧ (fresh i16).mdsmWord 3 = 0x02010103#32 := by
  decide +kernel

/-- R351, R362, I16: an overrun whose `OVF` the host does not read has no end; read, it ends. -/
theorem test_run_overrun :
    (withInputs (fresh i16) [.write 0x00C#12 4 0#32, .write 0x00C#12 4 0#32, .tick]).runEnd = none ∧
    (withInputs (fresh i16) [.write 0x00C#12 4 0#32, .write 0x00C#12 4 0#32, .read 0x008#12 4, .tick]).runEnd.isSome =
      true := by decide +kernel

/-- Log entry 18: an overrun whose `OVF` is cleared unread is not checked by reading that of a second one, nor after a
reset; one read checks two overruns whose `OVF` still stands. -/
theorem test_run_two_overruns :
    (withInputs (fresh i16) [.write 0x00C#12 4 0#32, .write 0x00C#12 4 0#32, .write 0x008#12 4 4#32,
      .write 0x00C#12 4 0#32, .read 0x008#12 4, .tick]).runEnd = none ∧
    (withInputs (fresh i16) [.write 0x00C#12 4 0#32, .write 0x00C#12 4 0#32, .rstN, .read 0x008#12 4]).runEnd = none ∧
    (withInputs (fresh i16) [.write 0x00C#12 4 0#32, .write 0x00C#12 4 0#32, .write 0x00C#12 4 0#32,
      .read 0x008#12 4, .tick]).runEnd.isSome = true := by decide +kernel

/-- R362: the end is the first point, before a reset that follows the last statement. -/
theorem test_run_ends_before_a_later_reset :
    ((withInputs (fresh i16) [.write 0x00C#12 4 0#32, .tick, .rstN]).runEnd.map State.done) = some true ∧
    (withInputs (fresh i16) [.read 0x002#12 4]).runEnd = none := by decide +kernel

/-- 2.5.3. -/
theorem test_bus_errors :
    step (withInputs (fresh i16) [.read 0x002#12 4]) = .fault (.busError 0x002#12 4) ∧
    step (withInputs (fresh i16) [.read 0x020#12 1]) = .fault (.busError 0x020#12 1) := ⟨rfl, rfl⟩

/-! For every obligation with hypotheses, a state and operands that meet them together. `Obligations.X` itself
is for the provers. -/

/-- The host's next access writes `w` to `CMD`. -/
def cmdNext (w : Word) (s : State) : State := withInputs s [.write 0x00C#12 4 w]

theorem test_witness_DecodeOfEncodeIsTheCommand :
    Instr.wellFormed (.keyLoad 31) = true ∧ Instr.wellFormed (.whiten 63) = true ∧ Instr.wellFormed .mdsMul = true := by
  decide

theorem test_witness_DecodedWordIsItsOwnEncoding :
    decode 0x00001F2A#32 = .ok (.decFinal 31) ∧ decode 0x003F0031#32 = .ok (.ffunc 63) := ⟨rfl, rfl⟩

theorem test_witness_StepRunsTheDecodedCommand :
    (cmdNext 0x00000B22#32 (inMessage .enc hello)).inputs = .write 0x00C#12 4 0x00000B22#32 :: [] ∧
    decode 0x00000B22#32 = .ok (.encFinal 11) := ⟨rfl, rfl⟩

theorem test_witness_IllegalWordIsIssuedWithIllegalCmd :
    (cmdNext 0x00010000#32 (keyed i16)).inputs = .write 0x00C#12 4 0x00010000#32 :: [] ∧
    decode 0x00010000#32 = .error .unusedField ∧ (cmdNext 0x00010000#32 (keyed i16)).pending = none := ⟨rfl, rfl, rfl⟩

/-- Both clauses: the `RESET` word, and a word that differs from it in one bit. -/
theorem test_witness_WordWrittenWhileBusyResetsOrIsDropped :
    busyNop.pending ≠ none ∧ (cmdNext 0x00000001#32 busyNop).inputs = .write 0x00C#12 4 0x00000001#32 :: [] ∧
    (cmdNext 0x00000101#32 busyNop).inputs = .write 0x00C#12 4 0x00000101#32 :: [] ∧ 0x00000101#32 ≠ 0x00000001#32 :=
  ⟨nofun, rfl, rfl, by decide⟩

/-- Each clause: no input left, no command in flight, one that ends well, one that ends in an error. -/
theorem test_witness_CoreTurnPerformsTheRecord :
    busyNop.inputs = [] ∧ (keyed i16).pending = none ∧ busyNop.pending = some ⟨.ok 0, []⟩ ∧
    ((fresh i16).issued (bodyWhiten 25 (fresh i16))).pending = some ⟨.err .badOperand, []⟩ := ⟨rfl, rfl, rfl, rfl⟩

theorem test_witness_CommandWordOnlyIssuesOrDrops :
    Instr.nop ≠ .reset ∧ (keyed i16).pending = none ∧ busyNop.pending ≠ none := ⟨nofun, rfl, nofun⟩

/-- Two states that differ in what no command reads. -/
theorem test_witness_IssueDependsOnOperandsOnly :
    let s := keyed i16
    let t : State := { s with dout := k1, ovf := true, irqEn := true, diag := true, outlen := 3, errcode := some .notReady }
    s.pending = none ∧ t.pending = none ∧ s.din = t.din ∧ s.sbox = t.sbox ∧ s.sk = t.sk ∧ s.params = t.params ∧
      s.iv = t.iv ∧ s.chain = t.chain ∧ s.padAlways = t.padAlways ∧ s.useMds = t.useMds ∧ s.keyValid = t.keyValid ∧
      s.ivValid = t.ivValid ∧ s.mstate = t.mstate ∧ s.mpad = t.mpad ∧ s.mmds = t.mmds ∧ s.outlen ≠ t.outlen :=
  ⟨rfl, rfl, rfl, rfl, rfl, rfl, rfl, rfl, rfl, rfl, rfl, rfl, rfl, rfl, rfl, by decide⟩

/-- The three outcomes: it stays, it completes, it is reset. -/
theorem test_witness_CommandInFlightStaysCompletesOrIsReset :
    busyNop.pending = some bodyNop ∧
    (∃ t, step (withInputs busyNop [.read 0x008#12 4]) = .next t ∧ t.pending = some bodyNop) ∧
    (∃ t, step busyNop = .next t ∧ t.done = true) ∧ (∃ t, step (withInputs busyNop [.rstN]) = .next t ∧ t.done = false) :=
  ⟨rfl, ⟨_, rfl, rfl⟩, ⟨_, rfl, rfl⟩, ⟨_, rfl, rfl⟩⟩

/-- A command is issued, read while busy, and completes when the inputs are used up. -/
theorem test_witness_CoreIsFreeWhenInputsRunOut :
    ∃ t, runSteps (2 + 1) (withInputs (fresh i16) [.write 0x00C#12 4 0x00000000#32, .read 0x008#12 4]) = .next t ∧
      t.done = true := ⟨_, rfl, rfl⟩

/-- Each kind of bad access. -/
theorem test_witness_OnlyBadAccessesFault :
    (∃ f, step (withInputs (keyed i16) [.write 0x00E#12 4 0#32]) = .fault f) ∧
    ∃ f, step (withInputs (keyed i16) [.read 0x00C#12 2]) = .fault f := ⟨⟨_, rfl⟩, ⟨_, rfl⟩⟩

/-- Two states with different keys. -/
theorem test_witness_ResetLeavesNothingOfTheKeyToRead :
    (keyed i16).params = (fresh k1).params ∧ exec .reset (keyed i16) = .next (keyed i16).performReset ∧
    exec .reset (fresh k1) = .next (fresh k1).performReset ∧ (keyed i16).keyValid ≠ (fresh k1).keyValid :=
  ⟨rfl, rfl, rfl, by decide⟩

theorem test_witness_NopChainLoadAndAbortAlwaysSucceed : (fresh i16).pending = none := rfl

theorem test_witness_KeyLoadExpandsTheKey : (fresh k1).pending = none ∧ (fresh k1).mstate = .idle := ⟨rfl, rfl⟩

/-- Lengths on both sides of 16. -/
theorem test_witness_IvLoadTakesSixteenBytesOnly :
    (fresh iv1).pending = none ∧ (fresh iv1).mstate = .idle ∧ 15 ≠ 16 ∧ 17 ≠ 16 := ⟨rfl, rfl, by decide, by decide⟩

theorem test_witness_StartBeginsTheMessageFromTheIv :
    (keyed i16).pending = none ∧ (keyed i16).mstate = .idle ∧ (keyed i16).keyValid = true ∧ (keyed i16).ivValid = true :=
  ⟨rfl, rfl, rfl, rfl⟩

theorem test_witness_EncBlockEncryptsAndChains :
    (inMessage .enc blockA).pending = none ∧ (inMessage .enc blockA).mstate = .enc := ⟨rfl, rfl⟩

/-- A chunk of 15 bytes in mode `ALWAYS`, and of 16 and of 0 in mode `REFERENCE`. -/
theorem test_witness_EncFinalPadsEncryptsAndEnds :
    let s := inMessage .enc hello
    let r : State := { s with mpad := false }
    s.pending = none ∧ s.mstate = .enc ∧ ¬ (s.mpad = true ∧ 15 = 16) ∧ (pad s.din 15 s.mpad).isSome = true ∧
      r.pending = none ∧ r.mstate = .enc ∧ ¬ (r.mpad = true ∧ 16 = 16) ∧ (pad r.din 16 r.mpad).isSome = true ∧
      pad r.din 0 r.mpad = none := by decide +kernel

theorem test_witness_DecBlockDecryptsAndChainsTheCiphertext :
    (inMessage .dec blockC1).pending = none ∧ (inMessage .dec blockC1).mstate = .dec := ⟨rfl, rfl⟩

theorem test_witness_DecFinalStripsThePadAndEnds :
    let s := inMessage .dec helloC
    let p := decBlock s.cipher s.mmds s.din s.chain
    s.pending = none ∧ s.mstate = .dec ∧ 1 ≤ p[15].toNat ∧ p[15].toNat + (11 : Fin 17).val = 16 := by decide +kernel

/-- The decryption of "HELLO WORLD" with a previous block that makes the last byte of the decrypted block `q`. -/
def decHelloWithLast (q : Byte) : State :=
  { inMessage .dec helloC with
    chain := xorBlock iv1 (Vector.ofFn fun k => if k.val = 15 then 5#8 ^^^ q else 0#8) }

/-- The pads of 1 and of 16, the ends of the range, by the right previous block. -/
theorem test_witness_DecFinalStripsThePadAndEnds_ends :
    let s := decHelloWithLast
    (decBlock (s 1).cipher (s 1).mmds (s 1).din (s 1).chain)[15].toNat = 1 ∧
    (decBlock (s 16).cipher (s 16).mmds (s 16).din (s 16).chain)[15].toNat = 16 := by decide +kernel

/-- Each clause: the length 15, and the last bytes 0 and 17 of a decrypted block. -/
theorem test_witness_DecFinalDataErrorsEndTheMessage :
    let s := decHelloWithLast
    (s 0).pending = none ∧ (s 0).mstate = .dec ∧ 15 ≠ 16 ∧
    (decBlock (s 0).cipher (s 0).mmds (s 0).din (s 0).chain)[15].toNat = 0 ∧
    17 ≤ (decBlock (s 17).cipher (s 17).mmds (s 17).din (s 17).chain)[15].toNat := by decide +kernel

/-- The indices at the ends of the ranges. -/
theorem test_witness_WhitenAndFfuncGiveTheirBlocks :
    (keyed i16).pending = none ∧ (keyed i16).keyValid = true ∧ 24 ≤ 24 ∧ 39 ≤ 39 := ⟨rfl, rfl, by decide, by decide⟩

theorem test_witness_FeistelCommandsGiveTheRounds : (keyed i16).pending = none ∧ (keyed i16).keyValid = true := ⟨rfl, rfl⟩

theorem test_witness_DiffusionCommandsGiveTheProducts :
    (fresh i16).pending = none ∧ (fresh i16).params.hasMds = true := ⟨rfl, rfl⟩

theorem test_witness_DiffusionCommandsAreIllegalWithoutTheUnit :
    let s : State := { fresh i16 with params := ⟨false, mill, .lookup⟩ }
    s.pending = none ∧ s.params.hasMds = false := ⟨rfl, rfl⟩

/-- Each clause at its boundary. -/
theorem test_witness_OperandOutOfRangeGivesBadOperand :
    (inMessage .enc hello).pending = none ∧ 17 ≤ 17 ∧ 25 ≤ 25 ∧ 40 ≤ 40 ∧ (inMessage .enc hello).mstate = .enc ∧
    (inMessage .enc hello).mpad = true := ⟨rfl, by decide, by decide, by decide, rfl, rfl⟩

/-- Each clause: a message state outside the set, and the largest length in range. -/
theorem test_witness_WrongMessageStateGivesBadSequence :
    (inMessage .enc hello).pending = none ∧ (inMessage .enc hello).mstate ≠ .idle ∧
    (inMessage .dec hello).pending = none ∧ (inMessage .dec hello).mstate ≠ .enc ∧ 16 ≤ 16 ∧
    (inMessage .enc hello).mstate ≠ .dec := ⟨rfl, nofun, rfl, nofun, by decide, nofun⟩

/-- Each clause: no key and no IV, a key without an IV, and the largest indices in range. -/
theorem test_witness_MissingKeyOrIvGivesNotReady :
    let s : State := { keyed i16 with ivValid := false }
    (fresh i16).pending = none ∧ (fresh i16).mstate = .idle ∧ (fresh i16).keyValid = false ∧
      s.pending = none ∧ s.mstate = .idle ∧ s.ivValid = false ∧ 24 ≤ 24 ∧ 39 ≤ 39 :=
  ⟨rfl, rfl, rfl, rfl, rfl, rfl, by decide, by decide⟩

/-- Each clause: the length error of `IV_LOAD`, a data error, and another error. -/
theorem test_witness_ErrorChangesOnlyWhatItsRowNames :
    (∃ u, exec (.ivLoad 15) (fresh i16) = .next u ∧ u.complete.errcode = some .invalidIvLength) ∧
    (∃ u, exec (.decFinal 15) (inMessage .dec i16) = .next u ∧ u.complete.errcode = some .invalidCiphertext) ∧
    (∃ u, exec (.whiten 25) (fresh i16) = .next u ∧ u.complete.errcode = some .badOperand) ∧
    (fresh i16).pending = none ∧ (inMessage .dec i16).pending = none :=
  ⟨⟨_, rfl, rfl⟩, ⟨_, rfl, rfl⟩, ⟨_, rfl, rfl⟩, rfl, rfl⟩

/-- The clauses on an error, and each success that changes the message state. -/
theorem test_witness_MessageStateMachine :
    (∃ u, exec (.decFinal 15) (inMessage .dec i16) = .next u ∧ u.complete.errcode = some .invalidCiphertext) ∧
    (∃ u, exec .encStart (inMessage .enc i16) = .next u ∧ u.complete.errcode = some .badSequence) ∧
    (∃ u, exec .encStart (keyed i16) = .next u ∧ u.complete.errcode = none) ∧
    (∃ u, exec .decStart (keyed i16) = .next u ∧ u.complete.errcode = none) ∧
    (∃ u, exec .encBlock (inMessage .enc i16) = .next u ∧ u.complete.errcode = none) ∧
    (∃ u, exec .decBlock (inMessage .dec i16) = .next u ∧ u.complete.errcode = none) ∧
    (∃ u, exec (.encFinal 15) (inMessage .enc i16) = .next u ∧ u.complete.errcode = none) ∧
    (∃ u, exec .abort (inMessage .dec i16) = .next u ∧ u.complete.errcode = none) ∧
    (∃ u, exec .nop (inMessage .dec i16) = .next u ∧ u.complete.errcode = none) :=
  ⟨⟨_, rfl, rfl⟩, ⟨_, rfl, rfl⟩, ⟨_, rfl, rfl⟩, ⟨_, rfl, rfl⟩, ⟨_, rfl, rfl⟩, ⟨_, rfl, rfl⟩, ⟨_, rfl, rfl⟩, ⟨_, rfl, rfl⟩,
    ⟨_, rfl, rfl⟩⟩

theorem test_witness_MessageStateMachine_decFinal :
    (run (.decFinal 16) (inMessage .dec helloC)).errcode = none ∧ (inMessage .dec helloC).pending = none := by
  decide +kernel

/-- The clauses on an illegal word and on reset. -/
theorem test_witness_MessageStateMachine_others :
    let s := cmdNext 0x00010000#32 (inMessage .enc i16)
    s.inputs = .write 0x00C#12 4 0x00010000#32 :: [] ∧ decode 0x00010000#32 = .error .unusedField ∧ s.pending = none ∧
      (∃ u, step s = .next u) ∧ (∃ u, exec .reset busyNop = .next u) ∧
      ∃ u, step (withInputs busyNop [.rstN]) = .next u := ⟨rfl, rfl, rfl, ⟨_, rfl⟩, ⟨_, rfl⟩, ⟨_, rfl⟩⟩

theorem test_witness_WhiteningIsAnElementwiseInvolution : 24 + 15 ≤ 39 := by decide

/-- Both modes. -/
theorem test_witness_RoundFunctionSimplified :
    (keyed i16).cipher.sbox = generateSBoxes k1 ∧ (keyed i16).cipher.mode = .lookup ∧
    (inMessage .enc i16).cipher.sbox = generateSBoxes k1 ∧ (inMessage .enc i16).cipher.mode = .zero := ⟨rfl, rfl, rfl, rfl⟩

theorem test_witness_ZeroModeRoundsAreAffine : (inMessage .enc i16).cipher.mode = .zero := rfl

theorem test_witness_ChainingSensitivity : iv1 ≠ zeroBlock ∧ blockC1 ≠ helloC := by decide +kernel

/-- Each clause, at 0, 15 and 16. -/
theorem test_witness_PaddedBlockBytes : 16 ≤ 16 ∧ 0 ≤ 16 ∧ 15 ≤ 16 ∧ 15 < 16 ∧ 15 ≠ 0 := by decide

/-- The encryption of "HELLO WORLD" and its decryption. -/
theorem test_witness_FinalChunkRoundTrip :
    let s := inMessage .enc hello
    let u := s.issued (bodyEncFinal 11 s)
    let t : State := { inMessage .dec hello with din := u.complete.dout }
    s.pending = none ∧ s.mstate = .enc ∧ 11 ≤ 15 ∧ 11 ≠ 0 ∧ exec (.encFinal 11) s = .next u ∧ t.pending = none ∧
      t.mstate = .dec ∧ t.cipher = s.cipher ∧ t.mmds = s.mmds ∧ t.chain = s.chain ∧ t.din = u.complete.dout ∧
      exec (.decFinal 16) t = .next (t.issued (bodyDecFinal 16 t)) :=
  ⟨rfl, rfl, by decide, by decide, rfl, rfl, rfl, rfl, rfl, rfl, rfl, rfl⟩

/-- An encryption in mode `REFERENCE` with a full chunk of bytes `q`. -/
def fullChunk (q : Byte) : State := { inMessage .enc (Vector.replicate 16 q) with mpad := false }

/-- The decryption of what `ENC_FINAL 16` makes of it. -/
def fullChunkBack (q : Byte) : State :=
  { inMessage .dec hello with din := ((fullChunk q).issued (bodyEncFinal 16 (fullChunk q))).complete.dout }

/-- Last bytes 1, 16, 0 and 17 among every `q`. -/
theorem test_witness_FinalChunkRoundTrip_full (q : Byte) :
    (fullChunk q).pending = none ∧ (fullChunk q).mstate = .enc ∧ (fullChunk q).mpad = false ∧
    exec (.encFinal 16) (fullChunk q) = .next ((fullChunk q).issued (bodyEncFinal 16 (fullChunk q))) ∧
    (fullChunkBack q).pending = none ∧ (fullChunkBack q).mstate = .dec ∧
    (fullChunkBack q).cipher = (fullChunk q).cipher ∧ (fullChunkBack q).mmds = (fullChunk q).mmds ∧
    (fullChunkBack q).chain = (fullChunk q).chain ∧
    (fullChunkBack q).din = ((fullChunk q).issued (bodyEncFinal 16 (fullChunk q))).complete.dout ∧
    exec (.decFinal 16) (fullChunkBack q) = .next ((fullChunkBack q).issued (bodyDecFinal 16 (fullChunkBack q))) ∧
    (fullChunk q).din[15] = q :=
  ⟨rfl, rfl, rfl, exec_free nofun rfl, rfl, rfl, by simp only [fullChunkBack, fullChunk, State.cipher, inMessage, keyed],
    rfl, rfl, by simp only [fullChunkBack], exec_free nofun rfl, Vector.getElem_replicate ..⟩

theorem test_witness_MessageBlockRoundTrip :
    let s := inMessage .enc blockA
    let u := s.issued (bodyEncBlock s)
    let t : State := { inMessage .dec blockA with din := u.complete.dout }
    s.pending = none ∧ s.mstate = .enc ∧ exec .encBlock s = .next u ∧ t.pending = none ∧ t.mstate = .dec ∧
      t.cipher = s.cipher ∧ t.mmds = s.mmds ∧ t.chain = s.chain ∧ t.din = u.complete.dout ∧
      exec .decBlock t = .next (t.issued (bodyDecBlock t)) := ⟨rfl, rfl, rfl, rfl, rfl, rfl, rfl, rfl, rfl, rfl⟩

/-- The state with a message active meets the invariant. -/
theorem inMessage_inv (m : MState) (h : m ≠ .idle) : (inMessage m i16).Inv where
  settled :=
    { tables := fun _ => ⟨rfl, rfl⟩
      message := fun _ => ⟨rfl, rfl⟩
      latches := fun hm => absurd hm h
      unit := fun hu => absurd (show true = false from hu) (by decide)
      failed := fun he => absurd rfl he }
  completes := fun hp => absurd rfl hp
  notDone := fun hp => absurd rfl hp

/-- Both kinds of message. -/
theorem test_witness_SavedContextIsRestored :
    ((inMessage .enc i16).Inv ∧ (inMessage .enc i16).pending = none ∧ (inMessage .enc i16).mstate = .enc) ∧
    ((inMessage .dec i16).Inv ∧ (inMessage .dec i16).pending = none ∧ (inMessage .dec i16).mstate = .dec) ∧
    (∃ a b c, exec .abort (inMessage .dec i16) = .next a ∧
      exec .decStart { a.complete with padAlways := true, useMds := false } = .next b ∧
      exec .chainLoad { b.complete with din := iv1 } = .next c) :=
  ⟨⟨inMessage_inv _ nofun, rfl, rfl⟩, ⟨inMessage_inv _ nofun, rfl, rfl⟩, ⟨_, _, _, rfl, rfl, rfl⟩⟩

theorem test_witness_StepKeepsTheInvariant :
    (inMessage .enc i16).Inv ∧ ∃ t, step (inMessage .enc i16) = .next t := ⟨inMessage_inv _ nofun, ⟨_, rfl⟩⟩

/-- Each clause: `OVF` set by a dropped word, and cleared by the write and by reset. -/
theorem test_witness_OvfChangesOnlyByItsRule :
    (∃ t, step (cmdNext 0x00000000#32 busyNop) = .next t ∧ busyNop.ovf = false ∧ t.ovf = true) ∧
    (∃ t, step (withInputs { busyNop with ovf := true } [.write 0x008#12 4 0x00000004#32]) = .next t ∧ t.ovf = false) ∧
    (∃ t, step (withInputs { busyNop with ovf := true } [.rstN]) = .next t ∧ t.ovf = false) :=
  ⟨⟨_, rfl, rfl, rfl⟩, ⟨_, rfl, rfl⟩, ⟨_, rfl, rfl⟩⟩

/-- Each clause: a completing `KEY_LOAD` changes the key, reset changes it, and `KEY_LOAD` issues the write. -/
theorem test_witness_OnlyKeyLoadAndResetWriteTheKey :
    (∃ t, step ((fresh k1).issued (bodyKeyLoad 16 (fresh k1))) = .next t ∧ t.key[0] ≠ (fresh k1).key[0]) ∧
    (∃ t, step (withInputs (keyed i16) [.rstN]) = .next t ∧ t.key[0] ≠ (keyed i16).key[0]) ∧
    (∃ t, exec (.keyLoad 16) (fresh k1) = .next t ∧ t.pending = some (bodyKeyLoad 16 (fresh k1)) ∧
      RegWrite.key (normKey k1 16) ∈ (bodyKeyLoad 16 (fresh k1)).writes ∧ (fresh k1).pending = none) :=
  ⟨⟨_, rfl, by decide +kernel⟩, ⟨_, rfl, by decide +kernel⟩, ⟨_, rfl, rfl, List.mem_cons_self, rfl⟩⟩

/-- The ends of the three reserved ranges, with a command in flight. -/
theorem test_witness_ReservedAddressReadsZeroIgnoresWrites :
    (∀ a ∈ [0x070#12, 0x0FC#12, 0x1A0#12, 0x3FC#12, 0x800#12, 0xFFC#12], a.toNat % 4 = 0 ∧
      ((0x070 ≤ a.toNat ∧ a.toNat < 0x100) ∨ (0x1A0 ≤ a.toNat ∧ a.toNat < 0x400) ∨ 0x800 ≤ a.toNat)) ∧
    ∀ a, (withInputs busyNop [.read a 4]).inputs = .read a 4 :: [] ∧
      (withInputs busyNop [.write a 4 1#32]).inputs = .write a 4 1#32 :: [] := ⟨by simp, fun _ => ⟨rfl, rfl⟩⟩

/-- `CAP`, the ends of the read-only ranges, and `CMD`. -/
theorem test_witness_ReservedAddressReadsZeroIgnoresWrites_readOnly :
    (∀ a ∈ [0x000#12, 0x020#12, 0x06C#12, 0x100#12, 0x19C#12, 0x400#12, 0x7FC#12], a.toNat % 4 = 0 ∧
      (a = 0x000#12 ∨ (0x020 ≤ a.toNat ∧ a.toNat < 0x070) ∨ (0x100 ≤ a.toNat ∧ a.toNat < 0x1A0) ∨
        (0x400 ≤ a.toNat ∧ a.toNat < 0x800))) ∧
    (∀ a, (withInputs busyNop [.write a 4 1#32]).inputs = .write a 4 1#32 :: []) ∧
    (0x00C#12).toNat % 4 = 0 ∧ (withInputs busyNop [.read 0x00C#12 4]).inputs = .read 0x00C#12 4 :: [] :=
  ⟨by simp, fun _ => rfl, by decide, rfl⟩

/-- The first and the last word, with a command in flight. -/
theorem test_witness_OperandWordWriteReplacesFourBytes :
    (∃ t, step (withInputs busyNop [.write (BitVec.ofNat 12 (0x010 + 4 * (0 : Fin 4).val)) 4 0x04030201#32]) = .next t) ∧
    (∃ t, step (withInputs busyNop [.write (BitVec.ofNat 12 (0x010 + 4 * (3 : Fin 4).val)) 4 0x04030201#32]) = .next t) :=
  ⟨⟨_, rfl⟩, ⟨_, rfl⟩⟩

theorem test_witness_ControlAndStatusWrites :
    (∃ t, step (withInputs (keyed i16) [.write 0x004#12 4 0xFFFFFFFF#32]) = .next t) ∧
    (∃ t, step (withInputs (keyed i16) [.write 0x008#12 4 0xFFFFFFFF#32]) = .next t) := ⟨⟨_, rfl⟩, ⟨_, rfl⟩⟩

/-- Each clause: `DIAG` off, no key, `DIAG` on, and `DIAG` on with a key. -/
theorem test_witness_KeyWindowsAreGated :
    (keyed i16).pending = none ∧ (keyed i16).diag = false ∧ (fresh i16).pending = none ∧ (fresh i16).keyValid = false ∧
    ({ keyed i16 with diag := true } : State).pending = none ∧ ({ keyed i16 with diag := true } : State).diag = true ∧
    ({ keyed i16 with diag := true } : State).keyValid = true := ⟨rfl, rfl, rfl, rfl, rfl, rfl, rfl⟩

/-- The first and the last address of each register of the map. -/
theorem test_witness_KeyWindowsAreGated_reads :
    (∀ a ∈ [0x000#12, 0x004#12, 0x008#12, 0x00C#12, 0x010#12, 0x01C#12, 0x020#12, 0x02C#12, 0x030#12, 0x03C#12, 0x040#12,
        0x04C#12, 0x050#12, 0x05C#12, 0x060#12, 0x06C#12, 0x100#12, 0x19C#12, 0x400#12, 0x7FC#12], a.toNat % 4 = 0) ∧
    ∀ a, (withInputs (keyed i16) [.read a 4]).inputs = .read a 4 :: [] ∧
      (withInputs (keyed i16) [.read a 4]).pending = none := ⟨by simp, fun _ => ⟨rfl, rfl⟩⟩

/-- Each clause, with a `CHAIN_LOAD` in flight: `STATUS`, a register it writes, a register it does not. -/
theorem test_witness_BusyReadsAreDraws :
    let p := bodyChainLoad (keyed i16)
    let s := (keyed i16).issued p
    s.pending = some p ∧ p.changes (decodeAddr 0x040#12) ∧ ¬ p.changes (decodeAddr 0x030#12) ∧
      (∃ t, step (withInputs s [.read 0x008#12 4]) = .next t) ∧ (∃ t, step (withInputs s [.read 0x040#12 4]) = .next t) ∧
      (∃ t, step (withInputs s [.read 0x030#12 4]) = .next t) := by
  refine ⟨rfl, ⟨_, List.mem_cons_self⟩, ?_, ⟨_, rfl⟩, ⟨_, rfl⟩, ⟨_, rfl⟩⟩
  rintro ⟨b, h⟩
  cases h with
  | tail _ h => cases h

/-- With and without the diffusion unit. -/
theorem test_witness_CapabilityAndMatrixReadTheirConstants :
    (fresh i16).params.hasMds = true ∧ ({ fresh i16 with params := ⟨false, mill, .zero⟩ } : State).params.hasMds = false ∧
    ∃ t, step (fresh i16) = .next t := ⟨rfl, rfl, ⟨_, rfl⟩⟩

/-- Each clause: a completion, the write, an issue, a dropped word. -/
theorem test_witness_CompletionInterrupt :
    let s : State := { busyNop with irqEn := true }
    s.pending ≠ none ∧ s.irqEn = true ∧ (0x00000002#32).getLsbD 1 = true ∧
      (keyed i16).pending = none ∧ (∃ u, exec .nop (keyed i16) = .next u) ∧ (∃ u, exec .reset s = .next u) ∧
      Instr.nop ≠ .reset ∧ ∃ u, exec .nop s = .next u :=
  ⟨nofun, rfl, by decide, rfl, ⟨_, rfl⟩, ⟨_, rfl⟩, nofun, ⟨_, rfl⟩⟩

end Sys2Proof.Tests
end

section
/-! PROOFS. The message state machine (R50) and the overrun flag (R47) of `spec/10_state.md`. -/

namespace Sys2Proof

/-- The commands that are not rows of the table of R50. -/
def Instr.outsideMessage : Instr → Bool
  | .encStart | .encBlock | .encFinal _ | .decStart | .decBlock | .decFinal _ | .abort => false
  | _ => true

end Sys2Proof

namespace Sys2Proof.Machine

/-! What a completion leaves in `ERRCODE` and `MSTATE` (R132). -/

/-- The error of an outcome, none for `Ok(n)`. -/
def CmdOutcome.error? : CmdOutcome → Option CmdError
  | .ok _ => none
  | .err c => some c

/-- `MSTATE` after one entry of a write list, where it was `m`. -/
def RegWrite.mstateFrom (m : MState) : RegWrite → MState
  | .mstate m' => m'
  | _ => m

/-- `MSTATE` after the writes of a record, where it was `m`. -/
def Pending.mstateFrom (p : Pending) (m : MState) : MState := p.writes.foldl RegWrite.mstateFrom m

theorem State.mstate_applyWrite (s : State) (x : RegWrite) : (s.applyWrite x).mstate = x.mstateFrom s.mstate := by
  cases x <;> rfl

theorem State.mstate_applyWrites (s : State) (l : List RegWrite) :
    (s.applyWrites l).mstate = l.foldl RegWrite.mstateFrom s.mstate := by
  induction l generalizing s with
  | nil => rfl
  | cons x l ih => rw [State.applyWrites_cons, ih, State.mstate_applyWrite, List.foldl_cons]

@[simp] theorem State.finish_mstate (s : State) (o : CmdOutcome) : (s.finish o).mstate = s.mstate := by
  cases o <;> rfl

@[simp] theorem State.finish_errcode (s : State) (o : CmdOutcome) : (s.finish o).errcode = o.error? := by
  cases o <;> rfl

@[simp] theorem State.finish_ovf (s : State) (o : CmdOutcome) : (s.finish o).ovf = s.ovf := by
  cases o <;> rfl

theorem State.mstate_complete_issued (s : State) (p : Pending) :
    (s.issued p).complete.mstate = p.mstateFrom s.mstate := by
  rw [State.complete_issued, State.finish_mstate, State.mstate_applyWrites, State.issued_mstate, Pending.mstateFrom]

theorem State.errcode_complete_issued (s : State) (p : Pending) :
    (s.issued p).complete.errcode = p.outcome.error? := by
  rw [State.complete_issued, State.finish_errcode]

/-! The message state machine as a relation, and that every body follows it (R50). -/

/-- The two data errors, which end the message (R234, R300). -/
abbrev CmdError.EndsMessage (c : CmdError) : Prop := c = .invalidCiphertext ∨ c = .paddingAmbiguity

/-- The table of R50: in `MSTATE = m` the command ends with the error `e?` and leaves `MSTATE = m'`. -/
inductive MessageTransition (m : MState) : Instr → Option CmdError → MState → Prop
  | encStart (hm : m = .idle) : MessageTransition m .encStart none .enc
  | decStart (hm : m = .idle) : MessageTransition m .decStart none .dec
  | encBlock (hm : m = .enc) : MessageTransition m .encBlock none m
  | decBlock (hm : m = .dec) : MessageTransition m .decBlock none m
  | encFinal (len : Nat) (hm : m = .enc) : MessageTransition m (.encFinal len) none .idle
  | decFinal (len : Nat) (hm : m = .dec) : MessageTransition m (.decFinal len) none .idle
  | dataError (len : Nat) {c : CmdError} (hm : m = .dec) (hc : c.EndsMessage) :
      MessageTransition m (.decFinal len) (some c) .idle
  | abort : MessageTransition m .abort none .idle
  | outside {i : Instr} (hi : i.outsideMessage = true) : MessageTransition m i none m
  | otherError {i : Instr} {c : CmdError} (hc : ¬ c.EndsMessage) : MessageTransition m i (some c) m

/-- The record `p` of the command `i`, issued in state `s`, follows the table of R50. -/
def Pending.FollowsTable (p : Pending) (s : State) (i : Instr) : Prop :=
  MessageTransition s.mstate i p.outcome.error? (p.mstateFrom s.mstate)

section Checks
variable {s : State} {i : Instr} {b : Pending}

theorem followsTable_errResult {c : CmdError} (hc : ¬ c.EndsMessage) : (errResult c []).FollowsTable s i :=
  .otherError hc

theorem followsTable_requireMstate {m : MState} (h : s.mstate = m → b.FollowsTable s i) :
    (requireMstate s [m] b).FollowsTable s i := by
  by_cases hm : s.mstate = m
  · rw [requireMstate_of_mem (List.mem_singleton.2 hm)]
    exact h hm
  · rw [requireMstate_of_not_mem (mt List.mem_singleton.1 hm)]
    exact followsTable_errResult (by decide)

theorem followsTable_requireKey (h : b.FollowsTable s i) : (requireKey s b).FollowsTable s i := by
  cases hk : s.keyValid with
  | true => rwa [requireKey_of_valid hk]
  | false => rw [requireKey_of_invalid hk]; exact followsTable_errResult (by decide)

theorem followsTable_requireIv (h : b.FollowsTable s i) : (requireIv s b).FollowsTable s i := by
  cases hv : s.ivValid with
  | true => rwa [requireIv_of_valid hv]
  | false => rw [requireIv_of_invalid hv]; exact followsTable_errResult (by decide)

theorem followsTable_requireRange {ok : Bool} (h : b.FollowsTable s i) : (requireRange ok b).FollowsTable s i := by
  cases ok with
  | true => exact h
  | false => exact followsTable_errResult (by decide)

theorem followsTable_requireMdsUnit (h : b.FollowsTable s i) : (requireMdsUnit s b).FollowsTable s i := by
  cases hu : s.params.hasMds with
  | true => rwa [requireMdsUnit_of_present hu]
  | false => rw [requireMdsUnit_of_absent hu]; exact followsTable_errResult (by decide)

end Checks

/-- `IV_LOAD` ends in a length error of its own, which is no data error (R156). -/
theorem followsTable_ivLoad (len : Nat) (s : State) : (bodyIvLoad len s).FollowsTable s (.ivLoad len) :=
  followsTable_requireMstate fun _ => by
    split
    · exact .otherError (by decide)
    · exact .outside rfl

/-- `ENC_FINAL` ends the message with or without a padded block (R230). -/
theorem followsTable_encFinal (len : Nat) (s : State) : (bodyEncFinal len s).FollowsTable s (.encFinal len) :=
  followsTable_requireRange <| followsTable_requireMstate fun hm => by
    split
    · exact followsTable_errResult (by decide)
    · split
      · exact .encFinal len hm
      · exact .encFinal len hm

/-- `DEC_FINAL` ends the message also where its data is in error (R234). -/
theorem followsTable_decFinal (len : Nat) (s : State) : (bodyDecFinal len s).FollowsTable s (.decFinal len) :=
  followsTable_requireMstate fun hm => by
    split
    · exact .dataError len hm (.inl rfl)
    · dsimp only
      split
      · exact .dataError len hm (.inr rfl)
      · exact .decFinal len hm

/-- Every command but `RESET` follows the table of R50. -/
theorem followsTable_instrBody {i : Instr} (hi : i ≠ .reset) (s : State) : (instrBody s i).FollowsTable s i := by
  cases i with
  | nop => exact .outside rfl
  | reset => exact absurd rfl hi
  | keyLoad len => exact followsTable_requireMstate fun _ => .outside rfl
  | ivLoad len => exact followsTable_ivLoad len s
  | chainLoad => exact .outside rfl
  | encStart =>
    exact followsTable_requireMstate fun hm => followsTable_requireKey <| followsTable_requireIv <| .encStart hm
  | encBlock => exact followsTable_requireMstate fun hm => .encBlock hm
  | encFinal len => exact followsTable_encFinal len s
  | decStart =>
    exact followsTable_requireMstate fun hm => followsTable_requireKey <| followsTable_requireIv <| .decStart hm
  | decBlock => exact followsTable_requireMstate fun hm => .decBlock hm
  | decFinal len => exact followsTable_decFinal len s
  | abort => exact .abort
  | whiten idx => exact followsTable_requireRange <| followsTable_requireKey <| .outside rfl
  | ffunc idx => exact followsTable_requireRange <| followsTable_requireKey <| .outside rfl
  | feistelFwd => exact followsTable_requireKey <| .outside rfl
  | feistelInv => exact followsTable_requireKey <| .outside rfl
  | gfMul => exact followsTable_requireMdsUnit <| .outside rfl
  | mdsMul => exact followsTable_requireMdsUnit <| .outside rfl

/-- A command issued on a free core moves `MSTATE` by the table of R50. -/
theorem messageTransition_of_exec {i : Instr} {s u : State} (hi : i ≠ .reset) (hp : s.pending = none)
    (hu : exec i s = .next u) : MessageTransition s.mstate i u.complete.errcode u.complete.mstate := by
  rw [exec_free hi hp] at hu
  obtain rfl : s.issued (instrBody s i) = u := by injection hu
  rw [State.errcode_complete_issued, State.mstate_complete_issued]
  exact followsTable_instrBody hi s

/-! The table of R50 read by its outcome and by its command. -/

namespace MessageTransition
variable {m m' : MState} {i : Instr} {c : CmdError}

theorem mstate_of_error (h : MessageTransition m i (some c) m') : m' = if c.EndsMessage then .idle else m := by
  cases h with
  | dataError len hm hc => rw [if_pos hc]
  | otherError hc => rw [if_neg hc]

theorem decFinal_of_dataError (h : MessageTransition m i (some c) m') (hc : c.EndsMessage) :
    m = .dec ∧ ∃ len, i = .decFinal len := by
  cases h with
  | dataError len hm _ => exact ⟨hm, len, rfl⟩
  | otherError hn => exact absurd hc hn

theorem of_encStart (h : MessageTransition m .encStart none m') : m = .idle ∧ m' = .enc := by
  cases h with
  | encStart hm => exact ⟨hm, rfl⟩
  | outside hi => cases hi

theorem of_decStart (h : MessageTransition m .decStart none m') : m = .idle ∧ m' = .dec := by
  cases h with
  | decStart hm => exact ⟨hm, rfl⟩
  | outside hi => cases hi

theorem of_encBlock (h : MessageTransition m .encBlock none m') : m = .enc ∧ m' = .enc := by
  cases h with
  | encBlock hm => exact ⟨hm, hm⟩
  | outside hi => cases hi

theorem of_decBlock (h : MessageTransition m .decBlock none m') : m = .dec ∧ m' = .dec := by
  cases h with
  | decBlock hm => exact ⟨hm, hm⟩
  | outside hi => cases hi

theorem of_encFinal {len : Nat} (h : MessageTransition m (.encFinal len) none m') : m = .enc ∧ m' = .idle := by
  cases h with
  | encFinal _ hm => exact ⟨hm, rfl⟩
  | outside hi => cases hi

theorem of_decFinal {len : Nat} (h : MessageTransition m (.decFinal len) none m') : m = .dec ∧ m' = .idle := by
  cases h with
  | decFinal _ hm => exact ⟨hm, rfl⟩
  | outside hi => cases hi

theorem of_abort (h : MessageTransition m .abort none m') : m' = .idle := by
  cases h with
  | abort => rfl
  | outside hi => cases hi

/-- The successes that move `MSTATE` are those of the start commands, the final commands and `ABORT`. -/
theorem mstate_of_other_success (h : MessageTransition m i none m') (hes : i ≠ .encStart) (hds : i ≠ .decStart)
    (hef : ∀ len, i ≠ .encFinal len) (hdf : ∀ len, i ≠ .decFinal len) (ha : i ≠ .abort) : m' = m := by
  cases h with
  | encStart _ => exact absurd rfl hes
  | decStart _ => exact absurd rfl hds
  | encBlock _ => rfl
  | decBlock _ => rfl
  | encFinal len _ => exact absurd rfl (hef len)
  | decFinal len _ => exact absurd rfl (hdf len)
  | abort => exact absurd rfl ha
  | outside _ => rfl

end MessageTransition

/-- An illegal word is submitted as a command that ends in `ILLEGAL_CMD` (R106). -/
theorem writeCmd_illegalWord {w : Word} {e : IllegalWord} (hw : decode w = .error e) (s : State) :
    writeCmd w s = submit s (errResult .illegalCmd []) := by
  simp only [writeCmd, hw]

/-- An illegal word written to a free core leaves `MSTATE` (R50, R133). -/
theorem mstate_complete_of_illegalWord {s u : State} {w : Word} {rest : List Input} {e : IllegalWord}
    (hin : s.inputs = .write cmdAddr 4 w :: rest) (hw : decode w = .error e) (hp : s.pending = none)
    (hu : step s = .next u) : u.complete.mstate = s.mstate := by
  rw [step_cmd hin, writeCmd_illegalWord hw] at hu
  rcases submit_cases hu with ⟨-, rfl⟩ | ⟨hbusy, -⟩
  · exact State.mstate_complete_issued _ _
  · exact absurd hp hbusy

/-! What a step does to `OVF` (R47). -/

/-- The row of `RESET` is selected by all 32 bits of its word (R104). -/
theorem resetRow_of_mem_opcodeTable {row : OpcodeRow} (h : row ∈ opcodeTable) {len idx : Nat}
    (hreset : row.command len idx = .reset) : row.mask = 0xFFFFFFFF#32 ∧ row.pattern = 0x00000001#32 := by
  revert row len idx
  simp [opcodeTable]

/-- The one word that decodes to `RESET` (R104). -/
theorem eq_resetWord_of_decode {w : Word} (h : decode w = .ok .reset) : w = 0x00000001#32 := by
  unfold decode at h
  split at h
  · next row hrow =>
    obtain ⟨hmask, hpat⟩ := resetRow_of_mem_opcodeTable (List.mem_of_find?_eq_some hrow) (by injection h)
    have hsel : w &&& row.mask = row.pattern := by
      simpa [OpcodeRow.selects] using List.find?_some (p := fun r : OpcodeRow => r.selects w) hrow
    rw [hmask, hpat] at hsel
    exact BitVec.and_allOnes.symm.trans hsel
  · cases h

theorem writeCmd_resetWord (s : State) : writeCmd 0x00000001#32 s = .next s.performReset := rfl

/-- Every word but `RESET`, legal or not, is submitted with some record (R106, R131). -/
theorem exists_writeCmd_eq_submit {w : Word} (hw : w ≠ 0x00000001#32) (s : State) :
    ∃ p, writeCmd w s = submit s p := by
  unfold writeCmd
  split
  · next i hi =>
    have hreset : i ≠ .reset := by
      rintro rfl
      exact hw (eq_resetWord_of_decode hi)
    exact ⟨_, exec_eq_submit hreset s⟩
  · exact ⟨_, rfl⟩

@[simp] theorem State.complete_ovf (s : State) : s.complete.ovf = s.ovf := by
  cases h : s.pending with
  | none => rw [State.complete_free h]
  | some p => rw [State.complete_inFlight h, State.finish_ovf, State.applyWrites_ovf]

/-- The next input clears `OVF`: the W1C write to `STATUS`, the reset input or the `RESET` word (R47). -/
def State.ClearsOvf (s : State) : Prop :=
  (∃ v rest, s.inputs = .write 0x008#12 4 v :: rest ∧ v.getLsbD 2 = true) ∨
  (∃ rest, s.inputs = .rstN :: rest) ∨ ∃ rest, s.inputs = .write 0x00C#12 4 0x00000001#32 :: rest

/-- A step sets `OVF`, clears it or keeps it, by what its input is. -/
def OvfRule (s t : State) : Prop :=
  (s.overruns = true ∧ t.ovf = true) ∨ (s.ClearsOvf ∧ t.ovf = false) ∨
  (s.overruns = false ∧ ¬ s.ClearsOvf ∧ t.ovf = s.ovf)

theorem not_clearsOvf_of_overruns {s : State} (h : s.overruns = true) : ¬ s.ClearsOvf := by
  obtain ⟨-, w, rest, hi, hw⟩ := (overruns_iff s).1 h
  rintro (⟨v, l, hs, -⟩ | ⟨l, hr⟩ | ⟨l, hc⟩)
  · rw [hi] at hs; cases hs
  · rw [hi] at hr; cases hr
  · rw [hi] at hc; cases hc; exact hw rfl

/-- A host write keeps `OVF` where it does so and neither writes 1 to bit 2 of `STATUS`, nor the `RESET` word, nor any
word to the `CMD` of a busy core. -/
theorem ovfRule_of_write_keeping {s t : State} {a : BitVec 12} {v : Word} {rest : List Input}
    (hi : s.inputs = .write a 4 v :: rest) (hstatus : a = 0x008#12 → v.getLsbD 2 = false)
    (hcmd : a = cmdAddr → v ≠ 0x00000001#32 ∧ s.pending = none) (ht : t.ovf = s.ovf) : OvfRule s t := by
  refine .inr (.inr ⟨Bool.eq_false_iff.2 fun ho => ?_, ?_, ht⟩)
  · obtain ⟨hbusy, w, l, hw, -⟩ := (overruns_iff s).1 ho
    rw [hi] at hw
    cases hw
    exact hbusy (hcmd rfl).2
  · rintro (⟨w, l, hw, hbit⟩ | ⟨l, hr⟩ | ⟨l, hw⟩)
    · rw [hi] at hw
      cases hw
      exact Bool.false_ne_true ((hstatus rfl).symm.trans hbit)
    · rw [hi] at hr
      cases hr
    · rw [hi] at hw
      cases hw
      exact (hcmd rfl).1 rfl

theorem writeWindow_status (s : State) (v : Word) : s.writeWindow .status v = s.writeStatus v := rfl

theorem writeWindow_ovf_of_ne_status {r : WindowReg} (hr : r ≠ .status) (s : State) (v : Word) :
    (s.writeWindow r v).ovf = s.ovf := by
  rcases writeWindow_cases s r v with ⟨-, h⟩ | ⟨hs, -⟩ | ⟨n, -, h⟩ | h
  · rw [h, State.writeCtrl_ovf]
  · exact absurd hs hr
  · rw [h]
  · rw [h]

/-- A write to a register of the window other than `CMD` clears `OVF` or keeps it. -/
theorem ovfRule_writeWindow {s : State} {a : BitVec 12} {v : Word} {rest : List Input}
    (hi : s.inputs = .write a 4 v :: rest) (hb : badAccess a 4 = false) (hc : decodeAddr a ≠ .cmd) :
    OvfRule s (State.writeWindow { s with inputs := rest } (decodeAddr a) v) := by
  have hnotCmd : a ≠ cmdAddr := by
    rintro rfl
    exact hc (by decide)
  by_cases hs : decodeAddr a = .status
  · obtain rfl := eq_statusAddr_of_decodeAddr hb hs
    rw [hs, writeWindow_status]
    cases hv : v.getLsbD 2 with
    | true => exact .inr (.inl ⟨.inl ⟨v, rest, hi, hv⟩, by rw [State.writeStatus_ovf, hv, Bool.not_true, Bool.and_false]⟩)
    | false =>
      exact ovfRule_of_write_keeping hi (fun _ => hv) (absurd · hnotCmd)
        (by rw [State.writeStatus_ovf, hv, Bool.not_false, Bool.and_true])
  · have hnotStatus : a ≠ 0x008#12 := by
      rintro rfl
      exact hs (by decide)
    exact ovfRule_of_write_keeping hi (absurd · hnotStatus) (absurd · hnotCmd) (writeWindow_ovf_of_ne_status hs _ v)

/-- A write to `CMD` clears `OVF` with the `RESET` word; another word sets it on a busy core and keeps it on a free
one. -/
theorem ovfRule_writeCmd {s t : State} {w : Word} {rest : List Input} (hi : s.inputs = .write cmdAddr 4 w :: rest)
    (h : writeCmd w { s with inputs := rest } = .next t) : OvfRule s t := by
  by_cases hw : w = 0x00000001#32
  · subst hw
    rw [writeCmd_resetWord] at h
    cases h
    exact .inr (.inl ⟨.inr (.inr ⟨rest, hi⟩), rfl⟩)
  · obtain ⟨p, hsubmit⟩ := exists_writeCmd_eq_submit hw { s with inputs := rest }
    rw [hsubmit] at h
    rcases submit_cases h with ⟨hp, rfl⟩ | ⟨hp, rfl⟩
    · exact ovfRule_of_write_keeping hi (absurd · (by decide)) (fun _ => ⟨hw, hp⟩) rfl
    · exact .inl ⟨(overruns_iff s).2 ⟨hp, w, rest, hi, hw⟩, rfl⟩

/-- Every step sets, clears or keeps `OVF` by the rule of R47. -/
theorem ovfRule_of_step {s t : State} (h : step s = .next t) : OvfRule s t := by
  rcases step_cases h with ⟨hi, rfl⟩ | ⟨rest, u, rfl, ⟨hi, rfl⟩ | ⟨hi, rfl⟩ | ⟨a, hi, -, rfl⟩ | ⟨a, v, hi, hb, hc, rfl⟩ |
    ⟨w, hi, hw⟩⟩
  · exact .inr (.inr ⟨by simp [State.overruns, hi], by simp [State.ClearsOvf, hi], State.complete_ovf s⟩)
  · exact .inr (.inr ⟨by simp [State.overruns, hi], by simp [State.ClearsOvf, hi], State.complete_ovf _⟩)
  · exact .inr (.inl ⟨.inr (.inl ⟨rest, hi⟩), rfl⟩)
  · exact .inr (.inr ⟨by simp [State.overruns, hi], by simp [State.ClearsOvf, hi], rfl⟩)
  · exact ovfRule_writeWindow hi hb hc
  · exact ovfRule_writeCmd hi hw

/-- Settles O34: every command follows the table of R50, and the table says the rest. -/
theorem messageStateMachine : Obligations.MessageStateMachine := by
  refine ⟨fun i s u hi hp hu => ?_, fun s u w rest e hin hw hp hu => mstate_complete_of_illegalWord hin hw hp hu,
    fun s u hu => ?_, fun s u rest hin hu => ?_⟩
  · have hT := messageTransition_of_exec hi hp hu
    refine ⟨fun c hc => ?_, fun c hc hdata => ?_, fun hok => ?_⟩
    · exact MessageTransition.mstate_of_error (hc ▸ hT)
    · exact MessageTransition.decFinal_of_dataError (hc ▸ hT) hdata
    · rw [hok] at hT
      refine ⟨?_, ?_, ?_, ?_, ?_, ?_, ?_, hT.mstate_of_other_success⟩
      · rintro rfl; exact hT.of_encStart
      · rintro rfl; exact hT.of_decStart
      · rintro rfl; exact hT.of_encBlock
      · rintro rfl; exact hT.of_decBlock
      · rintro len rfl; exact hT.of_encFinal
      · rintro len rfl; exact hT.of_decFinal
      · rintro rfl; exact hT.of_abort
  · rw [exec_reset] at hu
    cases hu
    rfl
  · rw [step_input hin] at hu
    cases hu
    rfl

/-- Settles O52: `OvfRule` at every step, and no input both overruns and clears. -/
theorem ovfChangesOnlyByItsRule : Obligations.OvfChangesOnlyByItsRule := by
  intro s t h
  refine ⟨fun hclear => Iff.trans ?_ (overruns_iff s), fun hset => show t.ovf = false ↔ s.ClearsOvf from ?_⟩
  · rcases ovfRule_of_step h with ⟨ho, ht⟩ | ⟨hc, ht⟩ | ⟨ho, -, ht⟩
    · simp [ho, ht]
    · have ho : s.overruns = false := by
        simpa using fun ho => not_clearsOvf_of_overruns ho hc
      simp [ho, ht]
    · simp [ho, ht, hclear]
  · rcases ovfRule_of_step h with ⟨ho, ht⟩ | ⟨hc, ht⟩ | ⟨-, hc, ht⟩
    · simp [not_clearsOvf_of_overruns ho, ht]
    · simp [hc, ht]
    · simp [hc, ht, hset]

end Sys2Proof.Machine
end

section
/-! PROOFS. The register window (`spec/20_memory.md`): the constants (R81), and the addresses whose reads or writes
have no effect (R74, R75). -/

namespace Sys2Proof.Machine

/-! Reads of what no command writes. -/

/-- A register that no record writes shows the value it holds, in a busy core too (R136). -/
theorem readValue_of_unwritten (s : State) {r : WindowReg} (hr : r ≠ .status) (h : ∀ p : Pending, ¬ p.changes r) :
    s.readValue r = s.windowValue r := by
  simp [State.readValue, readsDraw_of_unwritten s hr h]

/-- A read of such a register leaves the core as it is and takes no draw (R76). -/
theorem hostRead_of_unwritten (s : State) {r : WindowReg} (hr : r ≠ .status) (h : ∀ p : Pending, ¬ p.changes r) :
    s.hostRead r = { s with readLog := s.readLog ++ [s.windowValue r] } := by
  simp [hostRead_eq, readValue_of_unwritten s hr h, readsDraw_of_unwritten s hr h]

@[simp] theorem readValue_cap (s : State) : s.readValue .cap = s.capWord :=
  readValue_of_unwritten s nofun fun _ => id

@[simp] theorem readValue_mdsm (s : State) (i : Fin 4) : s.readValue (.mdsm i) = s.mdsmWord i :=
  readValue_of_unwritten s nofun fun _ => id

/-! The constants (R55, R56). -/

/-- `CAP` is its fixed part plus one bit for the diffusion unit and one for mode `ZERO` (R55). -/
theorem State.capWord_eq (s : State) :
    s.capWord = 0x10102800#32 + (if s.params.hasMds then 1#32 else 0#32)
      + (if s.params.sboxMode = .zero then 2#32 else 0#32) := by
  unfold State.capWord
  cases s.params.hasMds <;> cases s.params.sboxMode <;> rfl

theorem State.mdsmWord_of_absent {s : State} (h : s.params.hasMds = false) (i : Fin 4) : s.mdsmWord i = 0#32 := by
  simp [State.mdsmWord, h]

/-- Lane `j` of `MDSMi` is the matrix entry in row `i` and column `j` (R56). -/
theorem State.lane_mdsmWord {s : State} (h : s.params.hasMds = true) (i j : Fin 4) :
    lane (s.mdsmWord i) j.val = s.params.mdsM[i][j] := by
  rw [State.mdsmWord, if_pos h, lane_wordOfBytes]
  fin_cases j <;> rfl

/-! No step changes the parameters (R5). -/

theorem writeWindow_params (s : State) (r : WindowReg) (v : Word) : (s.writeWindow r v).params = s.params := by
  rcases writeWindow_cases s r v with ⟨-, h⟩ | ⟨-, h⟩ | ⟨n, -, h⟩ | h
  · rw [h, State.writeCtrl_params]
  · rw [h, State.writeStatus_params]
  · rw [h]
  · rw [h]

theorem writeCmd_params {w : Word} {s t : State} (h : writeCmd w s = .next t) : t.params = s.params := by
  rcases writeCmd_cases h with rfl | ⟨-, p, rfl⟩ | ⟨-, rfl⟩
  · exact State.performReset_params s
  · exact State.issued_params s p
  · exact State.dropped_params s

theorem step_params {s t : State} (h : step s = .next t) : t.params = s.params := by
  rcases step_cases h with ⟨-, rfl⟩ | ⟨rest, u, rfl, ⟨-, rfl⟩ | ⟨-, rfl⟩ | ⟨a, -, -, rfl⟩ | ⟨a, v, -, -, -, rfl⟩ |
    ⟨w, -, hw⟩⟩
  · exact State.complete_params s
  · exact State.complete_params _
  · exact State.performReset_params _
  · rw [hostRead_eq]
  · exact writeWindow_params _ _ v
  · exact writeCmd_params (s := { s with inputs := rest }) hw

/-- Settles O59: no command writes the registers of the constants, so every read shows what they hold. -/
theorem capabilityAndMatrixReadTheirConstants : Obligations.CapabilityAndMatrixReadTheirConstants := by
  intro s
  refine ⟨?_, fun i j hmds => ?_, fun i hmds => ?_, fun t => step_params⟩
  · rw [readValue_cap, State.capWord_eq]
  · rw [readValue_mdsm, State.lane_mdsmWord hmds]
  · rw [readValue_mdsm, State.mdsmWord_of_absent hmds]

/-! Aligned accesses that the core ignores. -/

/-- A host write to the register has an effect: it sets fields (`CTRL`, `STATUS`, `DINn`) or is a command (`CMD`). -/
def WindowReg.TakesWrite : WindowReg → Prop
  | .ctrl | .status | .cmd | .din _ => True
  | _ => False

theorem writeWindow_of_not_takesWrite {r : WindowReg} (hr : ¬ r.TakesWrite) (s : State) (v : Word) :
    s.writeWindow r v = s := by
  rcases writeWindow_cases s r v with ⟨rfl, -⟩ | ⟨rfl, -⟩ | ⟨n, rfl, -⟩ | h
  · exact absurd trivial hr
  · exact absurd trivial hr
  · exact absurd trivial hr
  · exact h

/-! `split` runs out of steps on the fourteen tests of the map; `iteInduction` takes them one at a time. -/

/-- The registers that take a write are the addresses from `CTRL` to `DIN3` (R71, R75). -/
theorem takesWrite_decodeAddr_iff (addr : BitVec 12) :
    (decodeAddr addr).TakesWrite ↔ 0x004 ≤ addr.toNat ∧ addr.toNat < 0x020 := by
  unfold decodeAddr
  repeat' refine iteInduction (motive := fun r : WindowReg => r.TakesWrite ↔ _) (fun _ => ?_) fun _ => ?_
  all_goals simp only [WindowReg.TakesWrite, true_iff, false_iff]; omega

/-- The reserved ranges of the map (R71, R74). -/
theorem decodeAddr_reserved {addr : BitVec 12}
    (h : (0x070 ≤ addr.toNat ∧ addr.toNat < 0x100) ∨ (0x1A0 ≤ addr.toNat ∧ addr.toNat < 0x400) ∨ 0x800 ≤ addr.toNat) :
    decodeAddr addr = .reserved := by
  unfold decodeAddr
  repeat' refine iteInduction (motive := (· = WindowReg.reserved)) (fun _ => ?_) fun _ => ?_
  any_goals rfl
  all_goals omega

theorem badAccess_of_aligned {addr : BitVec 12} (h : addr.toNat % 4 = 0) : badAccess addr 4 = false := by
  simp [badAccess, h]

/-- An aligned read of a register that no command writes records what the register holds, and nothing else changes. -/
theorem step_read_of_unwritten {s : State} {addr : BitVec 12} {rest : List Input} (halign : addr.toNat % 4 = 0)
    (hi : s.inputs = .read addr 4 :: rest) (hr : decodeAddr addr ≠ .status)
    (h : ∀ p : Pending, ¬ p.changes (decodeAddr addr)) :
    step s = .next { s with
      inputs := rest, readLog := s.readLog ++ [State.windowValue { s with inputs := rest } (decodeAddr addr)] } := by
  rw [step_input hi, takeInput, memRead_ok (badAccess_of_aligned halign), hostRead_of_unwritten _ hr h]

/-- An aligned write outside the registers that take one changes nothing and is no fault (R74, R75). -/
theorem step_write_of_not_takesWrite {s : State} {addr : BitVec 12} {v : Word} {rest : List Input}
    (halign : addr.toNat % 4 = 0) (hi : s.inputs = .write addr 4 v :: rest) (hr : ¬ (decodeAddr addr).TakesWrite) :
    step s = .next { s with inputs := rest } := by
  have hcmd : decodeAddr addr ≠ .cmd := fun hc => hr (hc ▸ trivial)
  rw [step_input hi, takeInput, memWrite, badAccess_of_aligned halign, if_neg Bool.false_ne_true, if_neg hcmd,
    writeWindow_of_not_takesWrite hr]

/-- Settles O54: each range is outside the addresses that take a write, and reserved addresses and `CMD` hold 0. -/
theorem reservedAddressReadsZeroIgnoresWrites : Obligations.ReservedAddressReadsZeroIgnoresWrites := by
  intro s addr v rest halign
  refine ⟨fun hres => ⟨fun hi => ?_, fun hi => ?_⟩, fun hro hi => ?_, ?_⟩
  · have hd := decodeAddr_reserved hres
    rw [step_read_of_unwritten halign hi (by simp [hd]) (by simp [hd, Pending.changes]), hd]
    rfl
  · exact step_write_of_not_takesWrite halign hi (by rw [takesWrite_decodeAddr_iff]; omega)
  · have haddr : ¬ (0x004 ≤ addr.toNat ∧ addr.toNat < 0x020) := by
      rcases hro with rfl | hro
      · decide
      · omega
    exact step_write_of_not_takesWrite halign hi (by rwa [takesWrite_decodeAddr_iff])
  · rintro rfl hi
    have hd : decodeAddr 0x00C#12 = .cmd := by decide
    rw [step_read_of_unwritten halign hi (by simp [hd]) (by simp [hd, Pending.changes]), hd]
    rfl

end Sys2Proof.Machine
end

section
/-! The opcode map: a word is selected by the row of its opcode or by none (`spec/30_encoding.md` R104, R108). -/

namespace Sys2Proof

/-- Every row tests all eight bits of the opcode (R104). -/
theorem opcField_mask_of_mem_opcodeTable : ∀ row ∈ opcodeTable, opcField row.mask = BitVec.allOnes 8 := by
  decide

/-- No two rows share an opcode (R104). -/
theorem opcodeTable_pairwise_opcField_ne :
    opcodeTable.Pairwise fun row row' => opcField row.pattern ≠ opcField row'.pattern := by
  decide

theorem OpcodeRow.selects_iff {row : OpcodeRow} {w : Word} : row.selects w = true ↔ w &&& row.mask = row.pattern :=
  beq_iff_eq

/-- A word selects only a row of its own opcode. -/
theorem opcField_pattern_of_selects {row : OpcodeRow} {w : Word} (hmem : row ∈ opcodeTable)
    (hsel : row.selects w = true) : opcField row.pattern = opcField w :=
  calc opcField row.pattern
    _ = opcField (w &&& row.mask) := by rw [OpcodeRow.selects_iff.mp hsel]
    _ = opcField w &&& opcField row.mask := BitVec.extractLsb'_and
    _ = opcField w := by rw [opcField_mask_of_mem_opcodeTable row hmem, BitVec.and_allOnes]

/-- The rows that a word selects: at most one, since they all have the opcode of the word. -/
theorem filter_selects_eq_nil_or_singleton (w : Word) :
    opcodeTable.filter (·.selects w) = [] ∨ ∃ row, opcodeTable.filter (·.selects w) = [row] := by
  have hopc : ∀ row ∈ opcodeTable.filter (·.selects w), opcField row.pattern = opcField w := fun row hrow =>
    opcField_pattern_of_selects (List.mem_filter.mp hrow).1 (List.mem_filter.mp hrow).2
  have hne := opcodeTable_pairwise_opcField_ne.filter (·.selects w)
  generalize opcodeTable.filter (·.selects w) = rows at hopc hne ⊢
  match rows with
  | [] => exact .inl rfl
  | [row] => exact .inr ⟨row, rfl⟩
  | row :: row' :: _ =>
    have hdiff : opcField row.pattern ≠ opcField row'.pattern := List.rel_of_pairwise_cons hne List.mem_cons_self
    have hsame : opcField row.pattern = opcField row'.pattern := by rw [hopc row (by simp), hopc row' (by simp)]
    exact absurd hsame hdiff

/-- A word that selects one row decodes to the command of that row (R108). -/
theorem decode_of_filter_eq_singleton {w : Word} {row : OpcodeRow} (h : opcodeTable.filter (·.selects w) = [row]) :
    decode w = .ok (row.command (lenField w) (idxField w)) := by
  have hfind : opcodeTable.find? (·.selects w) = some row := by rw [← List.head?_filter, h, List.head?_cons]
  simp only [decode, hfind]

/-- A word that selects no row is illegal, for the reason that R106 gives (R108). -/
theorem decode_of_filter_eq_nil {w : Word} (h : opcodeTable.filter (·.selects w) = []) :
    decode w = .error (illegalReason w) := by
  have hfind : opcodeTable.find? (·.selects w) = none := by rw [← List.head?_filter, h, List.head?_nil]
  simp only [decode, hfind]

/-- Settles O3: the rows are told apart by the opcode, which every row tests. -/
theorem everyWordIsOneRowOrIllegal : Obligations.EveryWordIsOneRowOrIllegal := by
  intro w
  rcases filter_selects_eq_nil_or_singleton w with hnone | ⟨row, hone⟩
  · exact .inr ⟨hnone, _, decode_of_filter_eq_nil hnone⟩
  · exact .inl ⟨row, hone, decode_of_filter_eq_singleton hone⟩

/-- Settles O4: twelve closed pairs, each evaluated in both directions (R112). -/
theorem referenceWordsDecodeAndEncode : Obligations.ReferenceWordsDecodeAndEncode := by
  unfold Obligations.ReferenceWordsDecodeAndEncode
  simp only [List.forall_mem_cons, List.not_mem_nil, false_implies, implies_true, and_true]
  and_intros <;> rfl

end Sys2Proof
end

section
/-! PROOFS. A word written to the `CMD` of a busy core (`spec/40_command_cycle.md` R134). -/

namespace Sys2Proof.Machine

/-- The `RESET` word runs `RESET` on a free and on a busy core (R134, R138). -/
theorem step_resetWord {s : State} {rest : List Input} (h : s.inputs = .write cmdAddr 4 0x00000001#32 :: rest) :
    step s = exec .reset { s with inputs := rest } := by
  rw [step_cmd h, writeCmd_resetWord, exec_reset]

/-- Any other word, legal or not, is dropped by a busy core: no record of it is put in flight (R134). -/
theorem step_cmd_busy {s : State} {w : Word} {rest : List Input} (h : s.inputs = .write cmdAddr 4 w :: rest)
    (hbusy : s.pending ≠ none) (hw : w ≠ 0x00000001#32) : step s = .next { s with inputs := rest }.dropped := by
  obtain ⟨p, hsubmit⟩ := exists_writeCmd_eq_submit hw { s with inputs := rest }
  rw [step_cmd h, hsubmit, submit_busy (s := { s with inputs := rest }) hbusy]

/-- Settles O7: `RESET` is the one word that a busy core does not drop. -/
theorem wordWrittenWhileBusyResetsOrIsDropped : Obligations.WordWrittenWhileBusyResetsOrIsDropped := by
  intro s w rest hin hbusy
  refine ⟨?_, fun hw => step_cmd_busy hin hbusy hw⟩
  rintro rfl
  have hstep := step_resetWord hin
  exact ⟨hstep, _, hstep.trans (exec_reset _), State.performReset_pending _⟩

end Sys2Proof.Machine
end

section
/-! PROOFS. The functions of the key setup, entry by entry (`spec/41_key_setup.md` R150, R152, R153). -/

namespace Sys2Proof.Machine

/-! Key normalisation and the S-boxes (R150, R152). -/

@[simp] theorem getElem_normKey (d : Block) (len k : Nat) (h : k < 16) :
    (normKey d len)[k] = if k < min len 16 then d[k] else 0#8 :=
  getElem_keepBytes d (min len 16) k h

/-- Both indices are in range, so no read past the end of a table or of the key is met. -/
theorem sboxAt_generateSBoxes (key : Block) (j : Fin 4) (i : Byte) :
    sboxAt (generateSBoxes key) j i = i ^^^ key[(j.val + i.toNat) % 16]'(Nat.mod_lt _ (by decide)) :=
  calc sboxAt (generateSBoxes key) j i
    _ = BitVec.ofNat 8 i.toNat ^^^ byteAt key ((j.val + i.toNat) % 16) :=
      getElem_generateSBoxes key j.val i.toNat j.isLt i.isLt
    _ = i ^^^ key[(j.val + i.toNat) % 16]'(Nat.mod_lt _ (by decide)) := by
      rw [BitVec.ofNat_toNat, BitVec.setWidth_eq, byteAt_of_lt key (Nat.mod_lt _ (by decide))]

/-- Every S-box of the zero key is the identity (R152). -/
theorem sboxAt_generateSBoxes_zeroBlock (j : Fin 4) (i : Byte) : sboxAt (generateSBoxes zeroBlock) j i = i := by
  rw [sboxAt_generateSBoxes, getElem_zeroBlock, BitVec.xor_zero]

/-- Settles O35: the bytes of the normalised key and the entries of the S-boxes, for every key and for the zero key. -/
theorem normalisedKeyAndSBoxEntries : Obligations.NormalisedKeyAndSBoxEntries := fun key =>
  ⟨getElem_normKey key, sboxAt_generateSBoxes key, sboxAt_generateSBoxes_zeroBlock⟩

/-! The key schedule (R153). -/

theorem toNat_subkeyAt_keySchedule (key : Block) {i : Nat} (h : i < 40) :
    (subkeyAt (keySchedule key) i).toNat = (key[i % 16].toNat + i * Config.ksDelta) % 2 ^ 32 := by
  rw [subkeyAt_of_lt _ h, getElem_keySchedule, BitVec.toNat_ofNat, byteAt_of_lt key (Nat.mod_lt _ (by decide))]

/-- The wrap at `2^32` is not seen modulo a divisor of it, where the constant of the schedule may be reduced. -/
theorem toNat_subkeyAt_keySchedule_modEq (key : Block) {i m d : Nat} (h : i < 40) (hm : m ∣ 2 ^ 32)
    (hd : Config.ksDelta ≡ d [MOD m]) :
    (subkeyAt (keySchedule key) i).toNat ≡ key[i % 16].toNat + i * d [MOD m] :=
  calc (subkeyAt (keySchedule key) i).toNat
    _ = (key[i % 16].toNat + i * Config.ksDelta) % 2 ^ 32 := toNat_subkeyAt_keySchedule key h
    _ ≡ key[i % 16].toNat + i * Config.ksDelta [MOD m] := (Nat.mod_modEq _ _).of_dvd hm
    _ ≡ key[i % 16].toNat + i * d [MOD m] := (hd.mul_left i).add_left _

/-- The low byte of a subkey, which whitening and the round function XOR into a byte (R153, R190, R191). -/
theorem toNat_setWidth_subkeyAt_keySchedule (key : Block) {i : Nat} (h : i < 40) :
    ((subkeyAt (keySchedule key) i).setWidth 8).toNat = (key[i % 16].toNat + i * 0xB9) % 256 := by
  rw [BitVec.toNat_setWidth]
  exact toNat_subkeyAt_keySchedule_modEq key h (by decide) (by decide)

/-- The table selector of a subkey (R153). -/
theorem toNat_subkeyAt_keySchedule_mod_four (key : Block) {i : Nat} (h : i < 40) :
    (subkeyAt (keySchedule key) i).toNat % 4 = (key[i % 16].toNat + i) % 4 := by
  have hone : Config.ksDelta ≡ 1 [MOD 4] := by decide
  simpa only [Nat.ModEq, mul_one] using toNat_subkeyAt_keySchedule_modEq key h (by decide) hone

/-- Settles O36: the low byte and the selector are the subkey modulo 256 and modulo 4, two divisors of `2^32`. -/
theorem subkeyValues : Obligations.SubkeyValues := fun key _ h =>
  ⟨toNat_subkeyAt_keySchedule key h, toNat_setWidth_subkeyAt_keySchedule key h,
    toNat_subkeyAt_keySchedule_mod_four key h⟩

end Sys2Proof.Machine
end

section
/-! PROOFS. The forward and the inverse rounds undo each other (`spec/43_datapath.md` R193–R196). -/

namespace Sys2Proof.Machine

/-- The one fact a Feistel round turns on: what `G` answers is put in and taken out by exclusive or, whatever it is. -/
@[simp] theorem xorHalf_xorHalf_cancel_right (a g : Half) : xorHalf (xorHalf a g) g = a := by
  ext k h
  rw [getElem_xorHalf, getElem_xorHalf, BitVec.xor_assoc, BitVec.xor_self, BitVec.xor_zero]

/-! One round (R195). -/

@[simp] theorem decRound_encRound (c : CipherTables) (m : Bool) (r : Nat) (x : Half × Half) :
    decRound c m r (encRound c m r x) = x :=
  Prod.ext (xorHalf_xorHalf_cancel_right x.1 (roundG c x.2 (subkeyAt c.sk r) m)) rfl

@[simp] theorem encRound_decRound (c : CipherTables) (m : Bool) (r : Nat) (x : Half × Half) :
    encRound c m r (decRound c m r x) = x :=
  Prod.ext rfl (xorHalf_xorHalf_cancel_right x.2 (roundG c x.1 (subkeyAt c.sk r) m))

/-! Any number of rounds: the inverse rounds begin with the round the forward rounds end with. -/

theorem decRoundsFrom_encRoundsTo (c : CipherTables) (m : Bool) (n : Nat) (x : Half × Half) :
    decRoundsFrom c m n (encRoundsTo c m n x) = x := by
  induction n with
  | zero => rfl
  | succ n ih => rw [encRoundsTo, decRoundsFrom, decRound_encRound, ih]

theorem encRoundsTo_decRoundsFrom (c : CipherTables) (m : Bool) (n : Nat) (x : Half × Half) :
    encRoundsTo c m n (decRoundsFrom c m n x) = x := by
  induction n generalizing x with
  | zero => rfl
  | succ n ih => rw [encRoundsTo, decRoundsFrom, ih, encRound_decRound]

/-! The rounds on blocks, through the halves of what they answer. -/

theorem halves_encRounds (c : CipherTables) (m : Bool) (b : Block) :
    (leftHalf (encRounds c m b), rightHalf (encRounds c m b)) =
      encRoundsTo c m Config.rounds (leftHalf b, rightHalf b) :=
  Prod.ext (leftHalf_joinHalves _ _) (rightHalf_joinHalves _ _)

theorem halves_decRounds (c : CipherTables) (m : Bool) (b : Block) :
    (leftHalf (decRounds c m b), rightHalf (decRounds c m b)) =
      decRoundsFrom c m Config.rounds (leftHalf b, rightHalf b) :=
  Prod.ext (leftHalf_joinHalves _ _) (rightHalf_joinHalves _ _)

@[simp] theorem decRounds_encRounds (c : CipherTables) (m : Bool) (b : Block) :
    decRounds c m (encRounds c m b) = b := by
  rw [decRounds, halves_encRounds, decRoundsFrom_encRoundsTo, joinHalves_halves]

@[simp] theorem encRounds_decRounds (c : CipherTables) (m : Bool) (b : Block) :
    encRounds c m (decRounds c m b) = b := by
  rw [encRounds, halves_decRounds, encRoundsTo_decRoundsFrom, joinHalves_halves]

/-- Settles O42: by induction on the number of rounds, each undone by the inverse round of its index. -/
theorem roundsAndInverseRoundsCancel : Obligations.RoundsAndInverseRoundsCancel := fun c m b =>
  ⟨decRounds_encRounds c m b, encRounds_decRounds c m b⟩

end Sys2Proof.Machine
end

section
/-! PROOFS. The block functions of CBC: their inverses and what chaining passes on (`spec/44_cbc.md` R222, R239). -/

namespace Sys2Proof.Machine

/-! Exclusive or and whitening on blocks. -/

theorem xorBlock_comm (a b : Block) : xorBlock a b = xorBlock b a := by
  ext k h
  rw [getElem_xorBlock, getElem_xorBlock, BitVec.xor_comm]

theorem xorBlock_assoc (a b d : Block) : xorBlock (xorBlock a b) d = xorBlock a (xorBlock b d) := by
  ext k h
  simp only [getElem_xorBlock, BitVec.xor_assoc]

@[simp] theorem xorBlock_xorBlock_cancel_right (a b : Block) : xorBlock (xorBlock a b) b = a := by
  ext k h
  rw [getElem_xorBlock, getElem_xorBlock, BitVec.xor_assoc, BitVec.xor_self, BitVec.xor_zero]

/-- Whitening undoes itself, for an offset past the end of the subkeys too (R190). -/
@[simp] theorem whiten_whiten (sk : Subkeys) (off : Nat) (b : Block) : whiten sk off (whiten sk off b) = b := by
  ext k h
  rw [getElem_whiten, getElem_whiten, BitVec.xor_assoc, BitVec.xor_self, BitVec.xor_zero]

/-! The block functions undo each other in either order, layer by layer (R222). -/

@[simp] theorem decBlock_encBlock (c : CipherTables) (m : Bool) (p prev : Block) :
    decBlock c m (encBlock c m p prev) prev = p := by
  rw [decBlock, encBlock, whiten_whiten, decRounds_encRounds, whiten_whiten, xorBlock_xorBlock_cancel_right]

@[simp] theorem encBlock_decBlock (c : CipherTables) (m : Bool) (ct prev : Block) :
    encBlock c m (decBlock c m ct prev) prev = ct := by
  rw [encBlock, decBlock, xorBlock_xorBlock_cancel_right, whiten_whiten, encRounds_decRounds, whiten_whiten]

theorem encBlock_bijective (c : CipherTables) (m : Bool) (prev : Block) :
    Function.Bijective fun p => encBlock c m p prev :=
  Function.bijective_iff_has_inverse.mpr
    ⟨fun ct => decBlock c m ct prev, fun p => decBlock_encBlock c m p prev, fun ct => encBlock_decBlock c m ct prev⟩

/-- Settles O44: each layer of a block's encryption is undone by its inverse, in either order. -/
theorem blockDecryptionUndoesEncryption : Obligations.BlockDecryptionUndoesEncryption := fun c m prev =>
  ⟨fun p => decBlock_encBlock c m p prev, encBlock_bijective c m prev⟩

/-! Chaining on one block (R238, R239). -/

/-- The plaintext and the previous block enter an encryption only by their exclusive or (R220). -/
theorem encBlock_comm (c : CipherTables) (m : Bool) (p prev : Block) : encBlock c m p prev = encBlock c m prev p := by
  rw [encBlock, encBlock, xorBlock_comm]

theorem encBlock_prev_injective (c : CipherTables) (m : Bool) (p : Block) : Function.Injective (encBlock c m p) := by
  have hswap : encBlock c m p = fun prev => encBlock c m prev p := funext (encBlock_comm c m p)
  rw [hswap]
  exact (encBlock_bijective c m p).injective

/-- The previous block is added last in a decryption, so a change of it stays in its bits (R221). -/
theorem decBlock_xorBlock_prev (c : CipherTables) (m : Bool) (ct prev d : Block) :
    decBlock c m ct (xorBlock prev d) = xorBlock (decBlock c m ct prev) d := by
  rw [decBlock, decBlock, xorBlock_assoc]

theorem decBlock_injective (c : CipherTables) (m : Bool) (prev : Block) :
    Function.Injective fun ct => decBlock c m ct prev :=
  Function.LeftInverse.injective (g := fun p => encBlock c m p prev) fun ct => encBlock_decBlock c m ct prev

/-- Settles O45: encryption is injective in the previous block by its symmetry, decryption in the ciphertext block by
its inverse. -/
theorem chainingSensitivity : Obligations.ChainingSensitivity := fun c m p _ _ _ _ prev d =>
  ⟨(encBlock_prev_injective c m p).ne, decBlock_xorBlock_prev c m _ prev d, (decBlock_injective c m prev).ne⟩

end Sys2Proof.Machine
end

section
/-! PROOFS. What a command that ends in an error writes (`spec/60_exceptions.md` R300, R303). -/

namespace Sys2Proof.Machine

/-- The extra writes that the row of an error code names (R300). -/
def CmdError.extraWrites : CmdError → List RegWrite
  | .illegalCmd | .badOperand | .badSequence | .notReady => []
  | .invalidIvLength => [.ivValid false]
  | .invalidCiphertext | .paddingAmbiguity => endWrites

/-- If the record ends in an error, its writes are the extra writes of that error, and no other. -/
def Pending.ErrorWritesExtras (p : Pending) : Prop := ∀ c, p.outcome = .err c → p.writes = c.extraWrites

theorem errorWritesExtras_okResult (n : Fin 17) (writes : List RegWrite) :
    (okResult n writes).ErrorWritesExtras := nofun

theorem errorWritesExtras_errResult (c : CmdError) : (errResult c c.extraWrites).ErrorWritesExtras := by
  rintro c' ⟨⟩
  rfl

/-! The checks at the head of a body fail with errors that have no extra writes. -/

section Checks
variable {s : State} {b : Pending}

theorem errorWritesExtras_requireMstate {allowed : List MState} (h : b.ErrorWritesExtras) :
    (requireMstate s allowed b).ErrorWritesExtras :=
  iteInduction (fun _ => h) fun _ => errorWritesExtras_errResult .badSequence

theorem errorWritesExtras_requireKey (h : b.ErrorWritesExtras) : (requireKey s b).ErrorWritesExtras :=
  iteInduction (fun _ => h) fun _ => errorWritesExtras_errResult .notReady

theorem errorWritesExtras_requireIv (h : b.ErrorWritesExtras) : (requireIv s b).ErrorWritesExtras :=
  iteInduction (fun _ => h) fun _ => errorWritesExtras_errResult .notReady

theorem errorWritesExtras_requireRange {ok : Bool} (h : b.ErrorWritesExtras) :
    (requireRange ok b).ErrorWritesExtras :=
  iteInduction (fun _ => h) fun _ => errorWritesExtras_errResult .badOperand

theorem errorWritesExtras_requireMdsUnit (h : b.ErrorWritesExtras) : (requireMdsUnit s b).ErrorWritesExtras :=
  iteInduction (fun _ => h) fun _ => errorWritesExtras_errResult .illegalCmd

end Checks

/-! The bodies: three of them have errors of their own. -/

theorem errorWritesExtras_startBody (m : MState) (s : State) : (startBody m s).ErrorWritesExtras :=
  errorWritesExtras_requireMstate <| errorWritesExtras_requireKey <| errorWritesExtras_requireIv <|
    errorWritesExtras_okResult _ _

/-- A wrong length makes the IV invalid (R156). -/
theorem errorWritesExtras_ivLoad (len : Nat) (s : State) : (bodyIvLoad len s).ErrorWritesExtras :=
  errorWritesExtras_requireMstate <|
    iteInduction (fun _ => errorWritesExtras_errResult .invalidIvLength) fun _ => errorWritesExtras_okResult _ _

/-- A full chunk in mode `ALWAYS` is an operand error like any other (R230). -/
theorem errorWritesExtras_encFinal (len : Nat) (s : State) : (bodyEncFinal len s).ErrorWritesExtras :=
  errorWritesExtras_requireRange <| errorWritesExtras_requireMstate <| by
    split
    · exact errorWritesExtras_errResult .badOperand
    · split
      · exact errorWritesExtras_okResult _ _
      · exact errorWritesExtras_okResult _ _

/-- Both data errors end the message (R234). -/
theorem errorWritesExtras_decFinal (len : Nat) (s : State) : (bodyDecFinal len s).ErrorWritesExtras :=
  errorWritesExtras_requireMstate <| by
    split
    · exact errorWritesExtras_errResult .invalidCiphertext
    · dsimp only
      split
      · exact errorWritesExtras_errResult .paddingAmbiguity
      · exact errorWritesExtras_okResult _ _

/-- Whatever error a command ends in, its record holds the extra writes of that error and no other (R303). -/
theorem errorWritesExtras_instrBody (s : State) (i : Instr) : (instrBody s i).ErrorWritesExtras := by
  cases i with
  | nop | reset | chainLoad | abort => exact errorWritesExtras_okResult _ _
  | keyLoad _ | encBlock | decBlock => exact errorWritesExtras_requireMstate <| errorWritesExtras_okResult _ _
  | ivLoad len => exact errorWritesExtras_ivLoad len s
  | encStart => exact errorWritesExtras_startBody .enc s
  | decStart => exact errorWritesExtras_startBody .dec s
  | encFinal len => exact errorWritesExtras_encFinal len s
  | decFinal len => exact errorWritesExtras_decFinal len s
  | whiten _ | ffunc _ =>
    exact errorWritesExtras_requireRange <| errorWritesExtras_requireKey <| errorWritesExtras_okResult _ _
  | feistelFwd | feistelInv => exact errorWritesExtras_requireKey <| errorWritesExtras_okResult _ _
  | gfMul | mdsMul => exact errorWritesExtras_requireMdsUnit <| errorWritesExtras_okResult _ _

theorem CmdOutcome.error?_eq_some {o : CmdOutcome} {c : CmdError} : o.error? = some c ↔ o = .err c := by
  cases o <;> simp [CmdOutcome.error?]

/-- The completion of a command that ends in the error `c`: the extra writes of `c`, then the error outcome (R133). -/
theorem complete_of_exec_error {i : Instr} {s u : State} {c : CmdError} (hi : i ≠ .reset) (hp : s.pending = none)
    (hu : exec i s = .next u) (hc : u.complete.errcode = some c) :
    u.complete = ((s.issued (instrBody s i)).applyWrites c.extraWrites).finish (.err c) := by
  rw [exec_free hi hp] at hu
  obtain rfl : s.issued (instrBody s i) = u := by injection hu
  rw [State.errcode_complete_issued, CmdOutcome.error?_eq_some] at hc
  rw [State.complete_issued, hc, errorWritesExtras_instrBody s i c hc]

/-- Settles O33: the completion with the extra writes of each error written out. -/
theorem errorChangesOnlyWhatItsRowNames : Obligations.ErrorChangesOnlyWhatItsRowNames := by
  intro i s u c hi hp hu hc
  rw [complete_of_exec_error hi hp hu hc, hp]
  refine ⟨?_, ?_, fun hiv hct hpad => ?_⟩
  · rintro rfl
    rfl
  · rintro (rfl | rfl) <;> rfl
  · cases c with
    | illegalCmd | badOperand | badSequence | notReady => rfl
    | invalidIvLength => exact absurd rfl hiv
    | invalidCiphertext => exact absurd rfl hct
    | paddingAmbiguity => exact absurd rfl hpad

end Sys2Proof.Machine
end

section
/-! PROOFS. The decoder and the encoder undo each other (`spec/30_encoding.md` R101, R102, R104). -/

namespace Sys2Proof

/-! Decoding as the choice of a row (R104). -/

/-- A word decodes to the command of the one row it selects. -/
theorem decode_eq_ok_iff {w : Word} {i : Instr} :
    decode w = .ok i ↔
      ∃ row ∈ opcodeTable, row.selects w = true ∧ row.command (lenField w) (idxField w) = i := by
  constructor
  · intro h
    rcases filter_selects_eq_nil_or_singleton w with hnone | ⟨row, hone⟩
    · rw [decode_of_filter_eq_nil hnone] at h
      cases h
    · rw [decode_of_filter_eq_singleton hone] at h
      have hrow : row ∈ opcodeTable.filter (·.selects w) := hone ▸ List.mem_cons_self
      exact ⟨row, (List.mem_filter.mp hrow).1, (List.mem_filter.mp hrow).2, by injection h⟩
  · rintro ⟨row, hmem, hsel, rfl⟩
    have hrow : row ∈ opcodeTable.filter (·.selects w) := List.mem_filter.mpr ⟨hmem, hsel⟩
    rcases filter_selects_eq_nil_or_singleton w with hnone | ⟨row', hone⟩
    · rw [hnone] at hrow
      cases hrow
    · rw [hone, List.mem_singleton] at hrow
      rw [decode_of_filter_eq_singleton hone, hrow]

/-! The fields of a command word, bit by bit (R101). -/

theorem lenField_lt (w : Word) : lenField w < 32 := (w.extractLsb' 8 5).isLt

theorem idxField_lt (w : Word) : idxField w < 64 := (w.extractLsb' 16 6).isLt

theorem testBit_lenField (w : Word) (i : Nat) : (lenField w).testBit i = (decide (i < 5) && w.getLsbD (8 + i)) := by
  rw [lenField, BitVec.testBit_toNat, BitVec.getLsbD_extractLsb']

theorem testBit_idxField (w : Word) (i : Nat) : (idxField w).testBit i = (decide (i < 6) && w.getLsbD (16 + i)) := by
  rw [idxField, BitVec.testBit_toNat, BitVec.getLsbD_extractLsb']

theorem getLsbD_commandWord (opc len idx : Nat) {i : Nat} (h : i < 32) :
    (commandWord opc len idx).getLsbD i =
      (opc.testBit i || (decide (8 ≤ i) && len.testBit (i - 8)) || (decide (16 ≤ i) && idx.testBit (i - 16))) := by
  simp only [commandWord, BitVec.getLsbD_or, BitVec.getLsbD_shiftLeft, BitVec.getLsbD_ofNat, h,
    show i - 8 < 32 by omega, show i - 16 < 32 by omega, decide_true, Bool.true_and, ← decide_not, not_lt]

theorem testBit_eq_false_of_le {n k i : Nat} (hn : n < 2 ^ k) (hi : k ≤ i) : n.testBit i = false :=
  Nat.testBit_lt_two_pow (hn.trans_le (Nat.pow_le_pow_right (by decide) hi))

@[simp] theorem lenField_commandWord {opc len : Nat} (hopc : opc < 2 ^ 8) (hlen : len < 2 ^ 5) (idx : Nat) :
    lenField (commandWord opc len idx) = len := by
  refine Nat.eq_of_testBit_eq fun i => ?_
  rw [testBit_lenField]
  by_cases hi : i < 5
  · rw [getLsbD_commandWord _ _ _ (by omega), testBit_eq_false_of_le hopc (Nat.le_add_right 8 i)]
    simp [hi, show ¬ 16 ≤ 8 + i by omega]
  · simp [hi, testBit_eq_false_of_le hlen (not_lt.mp hi)]

@[simp] theorem idxField_commandWord {opc len idx : Nat} (hopc : opc < 2 ^ 8) (hlen : len < 2 ^ 5)
    (hidx : idx < 2 ^ 6) : idxField (commandWord opc len idx) = idx := by
  refine Nat.eq_of_testBit_eq fun i => ?_
  rw [testBit_idxField]
  by_cases hi : i < 6
  · rw [getLsbD_commandWord _ _ _ (by omega), testBit_eq_false_of_le hopc (by omega),
      testBit_eq_false_of_le hlen (by omega)]
    simp [hi]
  · simp [hi, testBit_eq_false_of_le hidx (not_lt.mp hi)]

/-! Which words a row of each form selects (R102): those made of its opcode and of the field that its form uses. -/

/-- The five bits of a word that form L leaves free are its `LEN`. -/
theorem ofNat_lenField_shiftLeft (w : Word) : BitVec.ofNat 32 (lenField w) <<< 8 = w &&& 0x00001F00#32 := by
  refine BitVec.eq_of_getLsbD_eq fun i hi => ?_
  have hmask : ∀ j : Fin 32, (0x00001F00#32).getLsbD j = decide (8 ≤ j.val ∧ j.val - 8 < 5) := by decide
  rw [BitVec.getLsbD_and, hmask ⟨i, hi⟩, BitVec.getLsbD_shiftLeft, BitVec.getLsbD_ofNat, testBit_lenField]
  by_cases hlo : 8 ≤ i
  · rw [Nat.add_sub_cancel' hlo]
    simp [hi, hlo, show i - 8 < 32 by omega, Bool.and_comm]
  · simp [hlo, show i < 8 by omega]

/-- The six bits of a word that form I leaves free are its `IDX`. -/
theorem ofNat_idxField_shiftLeft (w : Word) : BitVec.ofNat 32 (idxField w) <<< 16 = w &&& 0x003F0000#32 := by
  refine BitVec.eq_of_getLsbD_eq fun i hi => ?_
  have hmask : ∀ j : Fin 32, (0x003F0000#32).getLsbD j = decide (16 ≤ j.val ∧ j.val - 16 < 6) := by decide
  rw [BitVec.getLsbD_and, hmask ⟨i, hi⟩, BitVec.getLsbD_shiftLeft, BitVec.getLsbD_ofNat, testBit_idxField]
  by_cases hlo : 16 ≤ i
  · rw [Nat.add_sub_cancel' hlo]
    simp [hi, hlo, show i - 16 < 32 by omega, Bool.and_comm]
  · simp [hlo, show i < 16 by omega]

/-- A word is what a mask keeps of it and what the rest of the bits keep. -/
theorem and_eq_iff_eq_or {w mask p rest : Word} (hp : p &&& mask = p) (hrest : rest = ~~~mask) :
    w &&& mask = p ↔ w = p ||| (w &&& rest) := by
  subst hrest
  constructor
  · rintro rfl
    rw [← BitVec.and_or_distrib_left, BitVec.or_not_self, BitVec.and_allOnes]
  · intro h
    rw [h, BitVec.and_or_distrib_right, hp, BitVec.and_assoc, BitVec.not_and_self]
    simp

theorem selects_formN_iff {w p : Word} {opc : Nat} (hp : p = BitVec.ofNat 32 opc) (command : Nat → Nat → Instr) :
    OpcodeRow.selects ⟨0xFFFFFFFF#32, p, command⟩ w = true ↔ w = commandWord opc 0 0 := by
  rw [OpcodeRow.selects_iff, hp]
  simp only [commandWord, BitVec.zero_shiftLeft, BitVec.or_zero]
  exact ⟨fun h => BitVec.and_allOnes.symm.trans h, fun h => BitVec.and_allOnes.trans h⟩

theorem selects_formL_iff {w p : Word} {opc : Nat} (hp : p = BitVec.ofNat 32 opc) (hmask : p &&& 0xFFFFE0FF#32 = p)
    (command : Nat → Nat → Instr) :
    OpcodeRow.selects ⟨0xFFFFE0FF#32, p, command⟩ w = true ↔ w = commandWord opc (lenField w) 0 := by
  rw [OpcodeRow.selects_iff, and_eq_iff_eq_or hmask (rest := 0x00001F00#32) (by decide), hp,
    ← ofNat_lenField_shiftLeft]
  simp [commandWord]

theorem selects_formI_iff {w p : Word} {opc : Nat} (hp : p = BitVec.ofNat 32 opc) (hmask : p &&& 0xFFC0FFFF#32 = p)
    (command : Nat → Nat → Instr) :
    OpcodeRow.selects ⟨0xFFC0FFFF#32, p, command⟩ w = true ↔ w = commandWord opc 0 (idxField w) := by
  rw [OpcodeRow.selects_iff, and_eq_iff_eq_or hmask (rest := 0x003F0000#32) (by decide), hp,
    ← ofNat_idxField_shiftLeft]
  simp [commandWord]

/-! Decoding what was encoded (R104): the operand of a word comes back from the field that its form uses. -/

theorem decode_formL {p : Word} {opc len : Nat} {c : Nat → Instr}
    (hmem : ⟨0xFFFFE0FF#32, p, fun len _ => c len⟩ ∈ opcodeTable) (hp : p = BitVec.ofNat 32 opc)
    (hmask : p &&& 0xFFFFE0FF#32 = p) (hopc : opc < 2 ^ 8) (hlen : lenFits len = true) :
    decode (commandWord opc len 0) = .ok (c len) := by
  have hfield : lenField (commandWord opc len 0) = len := lenField_commandWord hopc (of_decide_eq_true hlen) 0
  refine decode_eq_ok_iff.mpr ⟨_, hmem, (selects_formL_iff hp hmask _).mpr ?_, ?_⟩
  · rw [hfield]
  · exact congrArg c hfield

theorem decode_formI {p : Word} {opc idx : Nat} {c : Nat → Instr}
    (hmem : ⟨0xFFC0FFFF#32, p, fun _ idx => c idx⟩ ∈ opcodeTable) (hp : p = BitVec.ofNat 32 opc)
    (hmask : p &&& 0xFFC0FFFF#32 = p) (hopc : opc < 2 ^ 8) (hidx : idxFits idx = true) :
    decode (commandWord opc 0 idx) = .ok (c idx) := by
  have hfield : idxField (commandWord opc 0 idx) = idx :=
    idxField_commandWord hopc (by decide) (of_decide_eq_true hidx)
  refine decode_eq_ok_iff.mpr ⟨_, hmem, (selects_formI_iff hp hmask _).mpr ?_, ?_⟩
  · rw [hfield]
  · exact congrArg c hfield

/-- Settles O1: the words of form N are closed, and the words of forms L and I give their operand back. -/
theorem decodeOfEncodeIsTheCommand : Obligations.DecodeOfEncodeIsTheCommand := by
  intro i hwf
  cases i with
  | nop | reset | chainLoad | encStart | encBlock | decStart | decBlock | abort | feistelFwd | feistelInv | gfMul
  | mdsMul => rfl
  | keyLoad len => exact decode_formL (opc := 0x10) (c := .keyLoad) (by simp [opcodeTable]) rfl rfl (by decide) hwf
  | ivLoad len => exact decode_formL (opc := 0x11) (c := .ivLoad) (by simp [opcodeTable]) rfl rfl (by decide) hwf
  | encFinal len => exact decode_formL (opc := 0x22) (c := .encFinal) (by simp [opcodeTable]) rfl rfl (by decide) hwf
  | decFinal len => exact decode_formL (opc := 0x2A) (c := .decFinal) (by simp [opcodeTable]) rfl rfl (by decide) hwf
  | whiten idx => exact decode_formI (opc := 0x30) (c := .whiten) (by simp [opcodeTable]) rfl rfl (by decide) hwf
  | ffunc idx => exact decode_formI (opc := 0x31) (c := .ffunc) (by simp [opcodeTable]) rfl rfl (by decide) hwf

/-! Encoding what was decoded (R102, R106): a word that selects a row is the word of the command of that row. -/

/-- If the word selects the row, the command it stands for is well formed and has that word. -/
def OpcodeRow.EncodesBack (row : OpcodeRow) (w : Word) : Prop :=
  row.selects w = true →
    (row.command (lenField w) (idxField w)).wellFormed = true ∧ encode (row.command (lenField w) (idxField w)) = w

theorem encodesBack_formN {p : Word} {opc : Nat} {i : Instr} (hp : p = BitVec.ofNat 32 opc) (w : Word)
    (hwf : i.wellFormed = true) (henc : encode i = commandWord opc 0 0) :
    OpcodeRow.EncodesBack ⟨0xFFFFFFFF#32, p, fun _ _ => i⟩ w := fun hsel =>
  ⟨hwf, henc.trans ((selects_formN_iff hp _).mp hsel).symm⟩

theorem encodesBack_formL {p : Word} {opc : Nat} {c : Nat → Instr} (hp : p = BitVec.ofNat 32 opc)
    (hmask : p &&& 0xFFFFE0FF#32 = p) (w : Word) (hwf : ∀ len, (c len).wellFormed = lenFits len)
    (henc : ∀ len, encode (c len) = commandWord opc len 0) :
    OpcodeRow.EncodesBack ⟨0xFFFFE0FF#32, p, fun len _ => c len⟩ w := fun hsel =>
  ⟨(hwf _).trans (decide_eq_true (lenField_lt w)), (henc _).trans ((selects_formL_iff hp hmask _).mp hsel).symm⟩

theorem encodesBack_formI {p : Word} {opc : Nat} {c : Nat → Instr} (hp : p = BitVec.ofNat 32 opc)
    (hmask : p &&& 0xFFC0FFFF#32 = p) (w : Word) (hwf : ∀ idx, (c idx).wellFormed = idxFits idx)
    (henc : ∀ idx, encode (c idx) = commandWord opc 0 idx) :
    OpcodeRow.EncodesBack ⟨0xFFC0FFFF#32, p, fun _ idx => c idx⟩ w := fun hsel =>
  ⟨(hwf _).trans (decide_eq_true (idxField_lt w)), (henc _).trans ((selects_formI_iff hp hmask _).mp hsel).symm⟩

/-- Row by row, in the order of R104. -/
theorem encodesBack_of_mem_opcodeTable (w : Word) : ∀ row ∈ opcodeTable, row.EncodesBack w := by
  simp only [opcodeTable, List.forall_mem_cons, List.not_mem_nil, false_implies, implies_true, and_true]
  refine ⟨?nop, ?reset, ?keyLoad, ?ivLoad, ?chainLoad, ?encStart, ?encBlock, ?encFinal, ?decStart, ?decBlock,
    ?decFinal, ?abort, ?whiten, ?ffunc, ?feistelFwd, ?feistelInv, ?gfMul, ?mdsMul⟩
  case keyLoad | ivLoad | encFinal | decFinal => exact encodesBack_formL rfl rfl w (fun _ => rfl) fun _ => rfl
  case whiten | ffunc => exact encodesBack_formI rfl rfl w (fun _ => rfl) fun _ => rfl
  all_goals exact encodesBack_formN rfl w rfl rfl

/-- Settles O2: a word that decodes selects a row, and every row encodes back. -/
theorem decodedWordIsItsOwnEncoding : Obligations.DecodedWordIsItsOwnEncoding := by
  intro w i h
  obtain ⟨row, hmem, hsel, rfl⟩ := decode_eq_ok_iff.mp h
  exact encodesBack_of_mem_opcodeTable w row hmem hsel

end Sys2Proof
end

section
/-! PROOFS. What a command can write, and the invariant of every step (`spec/10_state.md` R39, R46, R52, R53;
`spec/44_cbc.md` R228; `spec/60_exceptions.md` R304). -/

namespace Sys2Proof.Machine

/-! What a command can write, said once. -/

/-- The entry of a write list names a block of the datapath: `DOUT` or `CHAIN`. -/
def RegWrite.IsData : RegWrite → Prop
  | .dout _ | .chain _ => True
  | _ => False

/-- The records that a command issued in state `s` can have, by what they write; the checks that the command passed
stand as hypotheses. -/
inductive CommandRecord (s : State) : Instr → Pending → Prop
  /-- A check failed. -/
  | refused (i : Instr) (c : CmdError) : CommandRecord s i (errResult c [])
  /-- R155. -/
  | keyLoad (len : Nat) (k : Block) (hm : s.mstate = .idle) :
      CommandRecord s (.keyLoad len)
        (okResult 0 [.key k, .sbox (generateSBoxes k), .sk (keySchedule k), .keyValid true])
  /-- R156. -/
  | ivLoad (len : Nat) (b : Block) (hm : s.mstate = .idle) :
      CommandRecord s (.ivLoad len) (okResult 0 [.iv b, .ivValid true])
  /-- R156, the wrong length. -/
  | ivLength (len : Nat) (hm : s.mstate = .idle) :
      CommandRecord s (.ivLoad len) (errResult .invalidIvLength [.ivValid false])
  /-- R228, R231. -/
  | start (i : Instr) (m : MState) (hm : m ≠ .idle) (hk : s.keyValid = true) (hv : s.ivValid = true) :
      CommandRecord s i (okResult 0 [.chain s.iv, .mstate m, .mpad s.padAlways, .mmds s.ctrlUseMds])
  /-- The result goes to `DOUT` and `CHAIN`, and the message goes on. -/
  | data (i : Instr) (n : Fin 17) (l : List RegWrite) (hl : ∀ x ∈ l, x.IsData) : CommandRecord s i (okResult n l)
  /-- The message ends, with a result, with none, or in a data error (R230, R234, R235). -/
  | ending (i : Instr) (o : CmdOutcome) (l : List RegWrite) (hl : ∀ x ∈ l, x.IsData) :
      CommandRecord s i ⟨o, l ++ endWrites⟩

section Checks
variable {s : State} {i : Instr} {b : Pending}

theorem commandRecord_requireMstate {m : MState} (h : s.mstate = m → CommandRecord s i b) :
    CommandRecord s i (requireMstate s [m] b) :=
  iteInduction (fun hm => h (List.mem_singleton.mp hm)) fun _ => .refused i .badSequence

theorem commandRecord_requireKey (h : s.keyValid = true → CommandRecord s i b) : CommandRecord s i (requireKey s b) :=
  iteInduction h fun _ => .refused i .notReady

theorem commandRecord_requireIv (h : s.ivValid = true → CommandRecord s i b) : CommandRecord s i (requireIv s b) :=
  iteInduction h fun _ => .refused i .notReady

theorem commandRecord_requireRange {ok : Bool} (h : CommandRecord s i b) : CommandRecord s i (requireRange ok b) :=
  iteInduction (fun _ => h) fun _ => .refused i .badOperand

theorem commandRecord_requireMdsUnit (h : CommandRecord s i b) : CommandRecord s i (requireMdsUnit s b) :=
  iteInduction (fun _ => h) fun _ => .refused i .illegalCmd

/-- A result that goes to `DOUT` alone. -/
theorem commandRecord_dout (n : Fin 17) (d : Block) : CommandRecord s i (okResult n [.dout d]) :=
  .data i n _ (by simp [RegWrite.IsData])

theorem commandRecord_dout_chain (n : Fin 17) (d ch : Block) : CommandRecord s i (okResult n [.dout d, .chain ch]) :=
  .data i n _ (by simp [RegWrite.IsData])

theorem commandRecord_end (o : CmdOutcome) : CommandRecord s i ⟨o, endWrites⟩ :=
  .ending i o [] (by simp)

theorem commandRecord_dout_chain_end (o : CmdOutcome) (d ch : Block) :
    CommandRecord s i ⟨o, [.dout d, .chain ch] ++ endWrites⟩ :=
  .ending i o _ (by simp [RegWrite.IsData])

end Checks

theorem commandRecord_startBody (s : State) (i : Instr) {m : MState} (hm : m ≠ .idle) :
    CommandRecord s i (startBody m s) :=
  commandRecord_requireMstate fun _ => commandRecord_requireKey fun hk => commandRecord_requireIv fun hv =>
    .start i m hm hk hv

theorem commandRecord_ivLoad (s : State) (len : Nat) : CommandRecord s (.ivLoad len) (bodyIvLoad len s) :=
  commandRecord_requireMstate fun hm => iteInduction (fun _ => .ivLength len hm) fun _ => .ivLoad len _ hm

theorem commandRecord_encFinal (s : State) (len : Nat) : CommandRecord s (.encFinal len) (bodyEncFinal len s) :=
  commandRecord_requireRange <| commandRecord_requireMstate fun _ => by
    split
    · exact .refused _ .badOperand
    · split
      · exact commandRecord_end _
      · exact commandRecord_dout_chain_end _ _ _

theorem commandRecord_decFinal (s : State) (len : Nat) : CommandRecord s (.decFinal len) (bodyDecFinal len s) :=
  commandRecord_requireMstate fun _ => by
    split
    · exact commandRecord_end _
    · dsimp only
      split
      · exact commandRecord_end _
      · exact commandRecord_dout_chain_end _ _ _

/-- Every command issues one of these records. -/
theorem commandRecord_instrBody (s : State) (i : Instr) : CommandRecord s i (instrBody s i) := by
  cases i with
  | nop | reset => exact .data _ 0 [] (by simp)
  | keyLoad len => exact commandRecord_requireMstate fun hm => .keyLoad len _ hm
  | ivLoad len => exact commandRecord_ivLoad s len
  | chainLoad => exact .data _ 0 _ (by simp [RegWrite.IsData])
  | encStart => exact commandRecord_startBody s _ (by decide)
  | decStart => exact commandRecord_startBody s _ (by decide)
  | encBlock | decBlock => exact commandRecord_requireMstate fun _ => commandRecord_dout_chain _ _ _
  | encFinal len => exact commandRecord_encFinal s len
  | decFinal len => exact commandRecord_decFinal s len
  | abort => exact commandRecord_end _
  | whiten idx | ffunc idx =>
    exact commandRecord_requireRange <| commandRecord_requireKey fun _ => commandRecord_dout _ _
  | feistelFwd | feistelInv => exact commandRecord_requireKey fun _ => commandRecord_dout _ _
  | gfMul | mdsMul => exact commandRecord_requireMdsUnit <| commandRecord_dout _ _

/-- A write list of data changes `DOUT` and `CHAIN` only. -/
theorem applyWrites_of_isData (s : State) (l : List RegWrite) (hl : ∀ x ∈ l, x.IsData) :
    ∃ d ch, s.applyWrites l = { s with dout := d, chain := ch } := by
  induction l generalizing s with
  | nil => exact ⟨s.dout, s.chain, rfl⟩
  | cons x l ih =>
    obtain ⟨d, ch, h⟩ := ih (s.applyWrite x) fun y hy => hl y (List.mem_cons_of_mem x hy)
    rw [State.applyWrites_cons, h]
    have hx : x.IsData := hl x List.mem_cons_self
    cases x with
    | dout b | chain b => exact ⟨d, ch, rfl⟩
    | key _ | iv _ | sbox _ | sk _ | keyValid _ | ivValid _ | mstate _ | mpad _ | mmds _ => exact hx.elim

theorem State.applyWrites_append (s : State) (l l' : List RegWrite) :
    s.applyWrites (l ++ l') = (s.applyWrites l).applyWrites l' :=
  List.foldl_append

/-! A write to `CMD`, with the record that it issues. -/

/-- What a word other than `RESET` submits: the record of a command, or that of an illegal word. -/
theorem writeCmd_record_cases {w : Word} {s t : State} (h : writeCmd w s = .next t) :
    t = s.performReset ∨ (s.pending = none ∧ ∃ i p, CommandRecord s i p ∧ t = s.issued p) ∨
    (s.pending ≠ none ∧ t = s.dropped) := by
  cases hw : decode w with
  | ok i =>
    simp only [writeCmd, hw] at h
    rcases exec_cases h with ⟨-, rfl⟩ | ⟨-, hp, rfl⟩ | ⟨-, hp, rfl⟩
    · exact .inl rfl
    · exact .inr (.inl ⟨hp, i, _, commandRecord_instrBody s i, rfl⟩)
    · exact .inr (.inr ⟨hp, rfl⟩)
  | error e =>
    rw [writeCmd_illegalWord hw] at h
    rcases submit_cases h with ⟨hp, rfl⟩ | ⟨hp, rfl⟩
    · exact .inr (.inl ⟨hp, .nop, _, .refused .nop .illegalCmd, rfl⟩)
    · exact .inr (.inr ⟨hp, rfl⟩)

/-! The host's side of the state, which no record writes and the settled registers do not depend on, `CTRL.USE_MDS`
apart. -/

/-- The state with `DIN`, `CTRL`, `DONE`, `OVF` and the model's own fields forgotten. -/
def State.eraseHost (s : State) : State :=
  { s with
    din := zeroBlock, irqEn := false, padAlways := false, useMds := false, diag := false, done := false, ovf := false,
    inputs := [], readLog := [], draws := 0 }

theorem eraseHost_applyWrite (s : State) (x : RegWrite) : (s.applyWrite x).eraseHost = s.eraseHost.applyWrite x := by
  cases x <;> rfl

theorem eraseHost_applyWrites (s : State) (l : List RegWrite) :
    (s.applyWrites l).eraseHost = s.eraseHost.applyWrites l := by
  induction l generalizing s with
  | nil => rfl
  | cons x l ih => rw [State.applyWrites_cons, State.applyWrites_cons, ih, eraseHost_applyWrite]

theorem eraseHost_finish (s : State) (o : CmdOutcome) :
    (s.finish o).eraseHost = (s.eraseHost.finish o).eraseHost := by
  cases o <;> rfl

/-- What the core's turn does to the rest of the state does not depend on the host's side. -/
theorem eraseHost_complete (s : State) : s.complete.eraseHost = s.eraseHost.complete.eraseHost := by
  cases hp : s.pending with
  | none => rw [State.complete_free hp, State.complete_free (s := s.eraseHost) hp]; rfl
  | some p =>
    rw [State.complete_inFlight hp, State.complete_inFlight (s := s.eraseHost) hp, eraseHost_finish,
      eraseHost_applyWrites]

@[simp] theorem State.complete_useMds (s : State) : s.complete.useMds = s.useMds := by
  cases hp : s.pending with
  | none => rw [State.complete_free hp]
  | some p => rw [State.complete_inFlight hp]; cases p.outcome <;> simp

theorem State.Settled.of_eraseHost_eq {s t : State} (hs : s.Settled) (h : t.eraseHost = s.eraseHost)
    (hu : t.params.hasMds = false → t.useMds = false) : t.Settled := by
  simp only [State.eraseHost, State.mk.injEq, true_and, and_true] at h
  obtain ⟨dout, key, iv, chain, sbox, sk, keyValid, ivValid, mstate, errcode, outlen, mpad, mmds, pending, params⟩ := h
  exact {
    tables := by rw [key, sbox, sk, keyValid]; exact hs.tables
    message := by rw [mstate, keyValid, ivValid]; exact hs.message
    latches := by rw [mstate, mpad, mmds]; exact hs.latches
    unit := fun hm => ⟨hu hm, mmds.trans (hs.unit (params ▸ hm)).2⟩
    failed := by rw [errcode, outlen, dout]; exact hs.failed }

/-- An access of the host that leaves the rest of the state keeps the invariant, if it leaves `USE_MDS` off where the
unit is absent and does not set `DONE`. -/
theorem State.Inv.of_eraseHost_eq {s t : State} (hs : s.Inv) (h : t.eraseHost = s.eraseHost)
    (hu : t.params.hasMds = false → t.useMds = false) (hd : s.done = false → t.done = false) : t.Inv := by
  have hp : t.eraseHost.pending = s.eraseHost.pending := congrArg State.pending h
  refine ⟨hs.settled.of_eraseHost_eq h hu, fun hb => ?_, fun hb => hd (hs.notDone (hp ▸ hb))⟩
  refine (hs.completes (hp ▸ hb)).of_eraseHost_eq ?_ (by simpa using hu)
  rw [eraseHost_complete, h, ← eraseHost_complete]

/-- A free core has only its registers to settle. -/
theorem State.Settled.inv_of_free {s : State} (hs : s.Settled) (hp : s.pending = none) : s.Inv :=
  ⟨hs, fun h => absurd hp h, fun h => absurd hp h⟩

/-! The completion of a record that a command issues leaves the registers settled. -/

/-- The outcome leaves the registers settled if the writes leave everything settled but the result of an error,
which it clears itself (R133, R304). -/
theorem settled_finish {s : State} (o : CmdOutcome)
    (tables : s.keyValid = true → s.sbox = generateSBoxes s.key ∧ s.sk = keySchedule s.key)
    (message : s.mstate ≠ .idle → s.keyValid = true ∧ s.ivValid = true)
    (latches : s.mstate = .idle → s.mpad = false ∧ s.mmds = false)
    (unit : s.params.hasMds = false → s.useMds = false ∧ s.mmds = false) : (s.finish o).Settled := by
  cases o with
  | ok n => exact ⟨tables, message, latches, unit, fun h => absurd rfl h⟩
  | err c => exact ⟨tables, message, latches, unit, fun _ => ⟨rfl, rfl⟩⟩

theorem settled_complete_issued {s : State} {i : Instr} {p : Pending} (hs : s.Settled) (h : CommandRecord s i p) :
    (s.issued p).complete.Settled := by
  rw [State.complete_issued]
  cases h with
  | refused _ c => exact settled_finish _ hs.tables hs.message hs.latches hs.unit
  | keyLoad len k hm =>
    exact settled_finish _ (fun _ => ⟨rfl, rfl⟩) (fun hne => absurd hm hne) hs.latches hs.unit
  | ivLoad len b hm => exact settled_finish _ hs.tables (fun hne => absurd hm hne) hs.latches hs.unit
  | ivLength len hm => exact settled_finish _ hs.tables (fun hne => absurd hm hne) hs.latches hs.unit
  | start _ m hm hk hv =>
    refine settled_finish _ hs.tables (fun _ => ⟨hk, hv⟩) (fun he => absurd he hm) fun hu => ⟨(hs.unit hu).1, ?_⟩
    exact (congrArg (· && s.useMds) hu : s.ctrlUseMds = false)
  | data _ n l hl =>
    obtain ⟨d, ch, hw⟩ := applyWrites_of_isData (s.issued (okResult n l)) l hl
    simp only [okResult] at hw ⊢
    rw [hw]
    exact settled_finish _ hs.tables hs.message hs.latches hs.unit
  | ending _ o l hl =>
    obtain ⟨d, ch, hw⟩ := applyWrites_of_isData (s.issued ⟨o, l ++ endWrites⟩) l hl
    rw [State.applyWrites_append, hw]
    exact settled_finish _ hs.tables (fun hne => absurd rfl hne) (fun _ => ⟨rfl, rfl⟩) fun hu => ⟨(hs.unit hu).1, rfl⟩

/-- The issue of a command on a free core keeps the invariant. -/
theorem State.Inv.issued {s : State} {i : Instr} {p : Pending} (hs : s.Inv) (h : CommandRecord s i p) :
    (s.issued p).Inv :=
  ⟨⟨hs.settled.tables, hs.settled.message, hs.settled.latches, hs.settled.unit, hs.settled.failed⟩,
    fun _ => settled_complete_issued hs.settled h, fun _ => rfl⟩

/-! The invariant, input by input. -/

theorem State.Inv.complete {s : State} (hs : s.Inv) : s.complete.Inv := by
  refine State.Settled.inv_of_free ?_ (State.complete_pending s)
  by_cases hp : s.pending = none
  · rw [State.complete_free hp]
    exact hs.settled
  · exact hs.completes hp

theorem inv_performReset (s : State) : s.performReset.Inv :=
  State.Settled.inv_of_free
    ⟨fun h => absurd h Bool.false_ne_true, fun h => absurd rfl h, fun _ => ⟨rfl, rfl⟩, fun _ => ⟨rfl, rfl⟩,
      fun h => absurd rfl h⟩ rfl

theorem State.Inv.withInputs {s : State} (hs : s.Inv) (l : List Input) : State.Inv { s with inputs := l } :=
  hs.of_eraseHost_eq rfl (fun hu => (hs.settled.unit hu).1) id

theorem State.Inv.hostRead {s : State} (hs : s.Inv) (r : WindowReg) : (s.hostRead r).Inv :=
  hs.of_eraseHost_eq rfl (fun hu => (hs.settled.unit hu).1) id

theorem State.Inv.writeWindow {s : State} (hs : s.Inv) (r : WindowReg) (v : Word) : (s.writeWindow r v).Inv := by
  have hunit : s.params.hasMds = false → s.useMds = false := fun hu => (hs.settled.unit hu).1
  rcases writeWindow_cases s r v with ⟨-, h⟩ | ⟨-, h⟩ | ⟨n, -, h⟩ | h
  · rw [h]
    refine hs.of_eraseHost_eq rfl (fun hu => ?_) id
    rw [State.writeCtrl_params] at hu
    rw [State.writeCtrl_useMds, hu, Bool.false_and]
  · rw [h]
    refine hs.of_eraseHost_eq rfl hunit fun hd => ?_
    rw [State.writeStatus_done, hd, Bool.false_and]
  · rw [h]
    exact hs.of_eraseHost_eq rfl hunit id
  · rwa [h]

theorem State.Inv.writeCmd {s t : State} {w : Word} (hs : s.Inv) (h : writeCmd w s = .next t) : t.Inv := by
  rcases writeCmd_record_cases h with rfl | ⟨-, i, p, hp, rfl⟩ | ⟨-, rfl⟩
  · exact inv_performReset s
  · exact hs.issued hp
  · exact hs.of_eraseHost_eq rfl (fun hu => (hs.settled.unit hu).1) id

/-- Settles O50: input by input, the one case that needs every command being a word written to a free core. -/
theorem stepKeepsTheInvariant : Obligations.StepKeepsTheInvariant := by
  intro s t hs h
  rcases step_cases h with ⟨-, rfl⟩ | ⟨rest, u, rfl, ⟨-, rfl⟩ | ⟨-, rfl⟩ | ⟨a, -, -, rfl⟩ | ⟨a, v, -, -, -, rfl⟩ |
    ⟨w, -, hw⟩⟩
  · exact hs.complete
  · exact (hs.withInputs rest).complete
  · exact inv_performReset _
  · exact (hs.withInputs rest).hostRead _
  · exact (hs.withInputs rest).writeWindow _ v
  · exact (hs.withInputs rest).writeCmd hw

/-- Settles O51: the reset state is what reset leaves of itself. -/
theorem resetMeetsTheInvariant : Obligations.ResetMeetsTheInvariant := inv_performReset State.reset

end Sys2Proof.Machine
end

section
/-! PROOFS. The command cycle and reset (`spec/40_command_cycle.md` R130–R142; `spec/60_exceptions.md` R305, R310;
`spec/70_reset_and_hazards.md` R340, R342). -/

namespace Sys2Proof.Machine

/-! A command word (R131, R134). -/

theorem writeCmd_decoded {w : Word} {i : Instr} (hw : decode w = .ok i) (s : State) : writeCmd w s = exec i s := by
  simp only [writeCmd, hw]

/-- A command word is never a fault and never refused. -/
theorem exists_writeCmd_eq_next (w : Word) (s : State) : ∃ t, writeCmd w s = .next t := by
  by_cases hw : w = 0x00000001#32
  · exact ⟨_, hw ▸ writeCmd_resetWord s⟩
  · obtain ⟨p, hsubmit⟩ := exists_writeCmd_eq_submit hw s
    rw [hsubmit]
    by_cases hp : s.pending = none
    · exact ⟨_, submit_free hp p⟩
    · exact ⟨_, submit_busy hp p⟩

/-- A busy core drops every command but `RESET`. -/
theorem exec_busy {i : Instr} {s : State} (hi : i ≠ .reset) (h : s.pending ≠ none) : exec i s = .next s.dropped := by
  rw [exec_eq_submit hi, submit_busy h]

/-- A write to `CMD` of a busy core is the `RESET` word or is dropped. -/
theorem writeCmd_busy_cases {w : Word} {s t : State} (hp : s.pending ≠ none) (h : writeCmd w s = .next t) :
    (w = 0x00000001#32 ∧ t = s.performReset) ∨ t = s.dropped := by
  by_cases hw : w = 0x00000001#32
  · subst hw
    rw [writeCmd_resetWord] at h
    cases h
    exact .inl ⟨rfl, rfl⟩
  · obtain ⟨p, hsubmit⟩ := exists_writeCmd_eq_submit hw s
    rw [hsubmit, submit_busy hp] at h
    cases h
    exact .inr rfl

/-- Settles O5. -/
theorem stepRunsTheDecodedCommand : Obligations.StepRunsTheDecodedCommand := fun _ _ _ _ hin hw =>
  (step_cmd hin).trans (writeCmd_decoded hw _)

/-- Settles O6. -/
theorem illegalWordIsIssuedWithIllegalCmd : Obligations.IllegalWordIsIssuedWithIllegalCmd := by
  intro s w rest e hin hw hp
  rw [step_cmd hin, writeCmd_illegalWord hw, submit_free (s := { s with inputs := rest }) hp]
  rfl

/-- Settles O9: `RESET` answers the reset state, every other command is submitted. -/
theorem commandWordOnlyIssuesOrDrops : Obligations.CommandWordOnlyIssuesOrDrops := by
  refine fun i s => ⟨?_, fun hi hp => ⟨_, exec_free hi hp⟩, fun hi hp => exec_busy hi hp⟩
  by_cases hi : i = .reset
  · exact ⟨_, hi ▸ exec_reset s⟩
  · by_cases hp : s.pending = none
    · exact ⟨_, exec_free hi hp⟩
    · exact ⟨_, exec_busy hi hp⟩

/-! The operands of a command (R142). -/

/-- The body of a command reads no register but its operands: the others may be replaced by those of any state `t`. -/
theorem instrBody_operands (s t : State) (i : Instr) :
    instrBody { t with
      din := s.din, iv := s.iv, chain := s.chain, sbox := s.sbox, sk := s.sk, padAlways := s.padAlways,
      useMds := s.useMds, keyValid := s.keyValid, ivValid := s.ivValid, mstate := s.mstate, mpad := s.mpad,
      mmds := s.mmds, params := s.params } i = instrBody s i := by
  cases i with
  | nop | reset | abort => rfl
  | keyLoad len => simp only [instrBody, bodyKeyLoad, requireMstate]
  | ivLoad len => simp only [instrBody, bodyIvLoad, requireMstate]
  | chainLoad => rfl
  | encStart | decStart =>
    simp only [instrBody, bodyEncStart, bodyDecStart, startBody, requireMstate, requireKey, requireIv, State.ctrlUseMds]
  | encBlock | decBlock => simp only [instrBody, bodyEncBlock, bodyDecBlock, requireMstate, State.cipher]
  | encFinal len => simp only [instrBody, bodyEncFinal, requireMstate, State.cipher]
  | decFinal len => simp only [instrBody, bodyDecFinal, requireMstate, State.cipher]
  | whiten idx => simp only [instrBody, bodyWhiten, requireKey]
  | ffunc idx => simp only [instrBody, bodyFfunc, requireKey, State.cipher]
  | feistelFwd | feistelInv =>
    simp only [instrBody, bodyFeistelFwd, bodyFeistelInv, requireKey, State.cipher, State.ctrlUseMds]
  | gfMul | mdsMul => simp only [instrBody, bodyGfMul, bodyMdsMul, requireMdsUnit]

/-- Settles O10: where the operands agree, replacing those of the one state by those of the other changes nothing. -/
theorem issueDependsOnOperandsOnly : Obligations.IssueDependsOnOperandsOnly := by
  intro i s t hi hs ht din iv chain sbox sk padAlways useMds keyValid ivValid mstate mpad mmds params
  have hbody := instrBody_operands s t i
  rw [din, iv, chain, sbox, sk, padAlways, useMds, keyValid, ivValid, mstate, mpad, mmds, params] at hbody
  refine ⟨instrBody s i, exec_free hi hs, ?_⟩
  rw [← hbody]
  exact exec_free hi ht

/-! A command in flight (R132, R135). -/

/-- Settles O8: the core's turn is `State.complete`, and `State.complete` is the writes and then the outcome. -/
theorem coreTurnPerformsTheRecord : Obligations.CoreTurnPerformsTheRecord :=
  ⟨fun s rest => step_input (s := { s with inputs := .tick :: rest }) rfl, fun _ => step_idle,
    fun _ => State.complete_free, fun _ _ _ => State.complete_inFlight, fun _ _ _ => State.complete_inFlight⟩

theorem writeWindow_pending (s : State) (r : WindowReg) (v : Word) : (s.writeWindow r v).pending = s.pending := by
  rcases writeWindow_cases s r v with ⟨-, h⟩ | ⟨-, h⟩ | ⟨n, -, h⟩ | h <;> rw [h] <;> rfl

theorem writeWindow_inputs (s : State) (r : WindowReg) (v : Word) : (s.writeWindow r v).inputs = s.inputs := by
  rcases writeWindow_cases s r v with ⟨-, h⟩ | ⟨-, h⟩ | ⟨n, -, h⟩ | h <;> rw [h] <;> rfl

/-- Settles O11: a busy core keeps its record under reads and writes and where it drops a word. -/
theorem commandInFlightStaysCompletesOrIsReset : Obligations.CommandInFlightStaysCompletesOrIsReset := by
  intro s t p hp h
  rcases step_cases h with ⟨hi, rfl⟩ | ⟨rest, u, rfl, ⟨hi, rfl⟩ | ⟨hi, rfl⟩ | ⟨a, -, -, rfl⟩ | ⟨a, v, -, -, -, rfl⟩ |
    ⟨w, hi, hw⟩⟩
  · refine .inr (.inl ⟨?_, .inl hi⟩)
    rw [hi, List.tail_nil, ← hi]
  · exact .inr (.inl ⟨by rw [hi, List.tail_cons], .inr ⟨rest, hi⟩⟩)
  · exact .inr (.inr ⟨by rw [hi]; rfl, .inl ⟨rest, hi⟩⟩)
  · exact .inl hp
  · exact .inl ((writeWindow_pending _ _ v).trans hp)
  · have hbusy : State.pending { s with inputs := rest } ≠ none := by simp [hp]
    rcases writeCmd_busy_cases hbusy hw with ⟨rfl, rfl⟩ | rfl
    · exact .inr (.inr ⟨by rw [hi]; rfl, .inr ⟨rest, hi⟩⟩)
    · exact .inl hp

/-- A word written to `CMD` leaves the inputs that follow it. -/
theorem writeCmd_inputs {w : Word} {s t : State} (h : writeCmd w s = .next t) : t.inputs = s.inputs := by
  rcases writeCmd_cases h with rfl | ⟨-, p, rfl⟩ | ⟨-, rfl⟩
  · exact State.performReset_inputs s
  · exact State.issued_inputs s p
  · exact State.dropped_inputs s

/-- A step takes one input, where there is one. -/
theorem step_inputs {s t : State} (h : step s = .next t) : t.inputs = s.inputs.tail := by
  rcases step_cases h with ⟨hi, rfl⟩ | ⟨rest, u, rfl, ⟨hi, rfl⟩ | ⟨hi, rfl⟩ | ⟨a, hi, -, rfl⟩ | ⟨a, v, hi, -, -, rfl⟩ |
    ⟨w, hi, hw⟩⟩
  · rw [State.complete_inputs, hi, List.tail_nil]
  · rw [State.complete_inputs, hi, List.tail_cons]
  · rw [State.performReset_inputs, hi, List.tail_cons]
  · rw [State.hostRead_inputs, hi, List.tail_cons]
  · rw [writeWindow_inputs, hi, List.tail_cons]
  · rw [writeCmd_inputs hw, hi, List.tail_cons]

/-- Settles O12: by induction on the inputs, of which each step takes one; the turn after the last completes. -/
theorem coreIsFreeWhenInputsRunOut : Obligations.CoreIsFreeWhenInputsRunOut := by
  intro s t h
  generalize hl : s.inputs = l at h
  induction l generalizing s with
  | nil =>
    rw [List.length_nil, runSteps, step_idle hl] at h
    cases h
    exact ⟨State.complete_pending s, by rw [State.complete_inputs, hl]⟩
  | cons e l ih =>
    rw [List.length_cons, runSteps] at h
    split at h
    · next u hu => exact ih u (by rw [step_inputs hu, hl, List.tail_cons]) h
    · cases h
    · cases h

/-! Faults (R72, R305). -/

theorem badAccess_iff {addr : BitVec 12} {size : Nat} :
    badAccess addr size = true ↔ size ≠ 4 ∨ addr.toNat % 4 ≠ 0 := by
  simp [badAccess]

/-- An access whose size and alignment are right is answered by a next state. -/
theorem exists_memWrite_eq_next {addr : BitVec 12} {size : Nat} (h : badAccess addr size = false) (v : Word)
    (s : State) : ∃ t, memWrite addr size v s = .next t := by
  rw [memWrite, h, if_neg Bool.false_ne_true]
  split
  · exact exists_writeCmd_eq_next v s
  · exact ⟨_, rfl⟩

/-- An input is an access that faults, with its own address and size, or it is answered by a next state. -/
theorem takeInput_cases (e : Input) (s : State) :
    (∃ addr size, (e = .read addr size ∨ ∃ v, e = .write addr size v) ∧ badAccess addr size = true ∧
      takeInput e s = .fault (.busError addr size)) ∨
    ((∀ addr size, (e = .read addr size ∨ ∃ v, e = .write addr size v) → badAccess addr size = false) ∧
      ∃ t, takeInput e s = .next t) := by
  cases e with
  | tick => exact .inr ⟨nofun, _, rfl⟩
  | rstN => exact .inr ⟨nofun, _, rfl⟩
  | read addr size =>
    cases hb : badAccess addr size with
    | true => exact .inl ⟨addr, size, .inl rfl, hb, memRead_bad hb s⟩
    | false =>
      refine .inr ⟨?_, _, memRead_ok hb s⟩
      rintro a k (h | ⟨v, h⟩) <;> cases h
      exact hb
  | write addr size v =>
    cases hb : badAccess addr size with
    | true => exact .inl ⟨addr, size, .inr ⟨v, rfl⟩, hb, memWrite_bad hb v s⟩
    | false =>
      refine .inr ⟨?_, exists_memWrite_eq_next hb v s⟩
      rintro a k (h | ⟨v, h⟩) <;> cases h
      exact hb

/-- Settles O13: an idle step never stops, and an input stops only as a bad access. -/
theorem onlyBadAccessesFault : Obligations.OnlyBadAccessesFault := by
  intro s
  cases hi : s.inputs with
  | nil =>
    rw [step_idle hi]
    simp
  | cons e rest =>
    rw [step_input hi]
    simp only [← badAccess_iff, List.cons.injEq]
    rcases takeInput_cases e { s with inputs := rest } with ⟨addr, size, he, hb, hf⟩ | ⟨hok, t, ht⟩
    · rw [hf]
      refine ⟨fun f => ⟨?_, ?_⟩, nofun⟩
      · rintro ⟨⟩
        exact ⟨addr, size, rest, he.imp (⟨·, rfl⟩) fun ⟨v, hv⟩ => ⟨v, hv, rfl⟩, hb, rfl⟩
      · rintro ⟨a, k, l, ha, -, rfl⟩
        rcases he with rfl | ⟨v, rfl⟩ <;> rcases ha with ⟨ha, -⟩ | ⟨v', ha, -⟩ <;> cases ha <;> rfl
    · rw [ht]
      refine ⟨fun f => ⟨nofun, ?_⟩, nofun⟩
      rintro ⟨a, k, l, ha, hb, -⟩
      have hgood := hok a k (ha.imp And.left fun ⟨v, hv, _⟩ => ⟨v, hv⟩)
      rw [hgood] at hb
      cases hb

end Sys2Proof.Machine
end

section
/-! PROOFS. What each command issues and what its completion makes of it (`spec/40_command_cycle.md` R137;
`spec/41_key_setup.md` R155–R157; `spec/42_diffusion.md` R174, R175; `spec/43_datapath.md` R197–R200;
`spec/44_cbc.md` R228–R235; `spec/60_exceptions.md` R300). -/

namespace Sys2Proof.Machine

/-! The two steps of a command on a free core, by its body. -/

theorem applyWrites_issued (s : State) (p : Pending) (l : List RegWrite) :
    (s.issued p).applyWrites l = (s.applyWrites l).issued p := by
  induction l generalizing s with
  | nil => rfl
  | cons x l ih =>
    have hx : (s.issued p).applyWrite x = (s.applyWrite x).issued p := by cases x <;> rfl
    rw [State.applyWrites_cons, State.applyWrites_cons, hx, ih]

/-- The record a body issues, and the state after its completion, which leaves the core as free as it was. -/
theorem issue_body {i : Instr} {s : State} {p : Pending} (hi : i ≠ .reset) (hp : s.pending = none)
    (hbody : instrBody s i = p) :
    exec i s = .next (s.issued p) ∧
    (s.issued p).complete =
      { (s.applyWrites p.writes).finish p.outcome with pending := (s.applyWrites p.writes).pending } := by
  refine ⟨hbody ▸ exec_free hi hp, ?_⟩
  rw [State.complete_issued, applyWrites_issued, State.applyWrites_pending, hp]
  cases p.outcome <;> rfl

/-- A body that succeeds, with the state `r` that its writes and its outcome leave. -/
theorem issue_ok {i : Instr} {s r : State} {n : Fin 17} {l : List RegWrite} (hi : i ≠ .reset) (hp : s.pending = none)
    (hbody : instrBody s i = okResult n l)
    (hr : { s.applyWrites l with errcode := none, outlen := n, done := true } = r) :
    exec i s = .next { s with pending := some ⟨.ok n, l⟩, done := false } ∧
    State.complete { s with pending := some ⟨.ok n, l⟩, done := false } = r :=
  (issue_body hi hp hbody).imp_right fun h => h.trans hr

/-- A body that fails, with the state `r` that its extra writes and its outcome leave. -/
theorem issue_err {i : Instr} {s r : State} {c : CmdError} {l : List RegWrite} (hi : i ≠ .reset)
    (hp : s.pending = none) (hbody : instrBody s i = errResult c l)
    (hr : { s.applyWrites l with dout := zeroBlock, errcode := some c, outlen := 0, done := true } = r) :
    exec i s = .next { s with pending := some ⟨.err c, l⟩, done := false } ∧
    State.complete { s with pending := some ⟨.err c, l⟩, done := false } = r :=
  (issue_body hi hp hbody).imp_right fun h => h.trans hr

theorem requireMstate_of_eq {s : State} {m : MState} (h : s.mstate = m) (b : Pending) : requireMstate s [m] b = b :=
  requireMstate_of_mem (List.mem_singleton.mpr h) b

theorem requireMstate_of_ne {s : State} {m : MState} (h : s.mstate ≠ m) (b : Pending) :
    requireMstate s [m] b = errResult .badSequence [] :=
  requireMstate_of_not_mem (mt List.mem_singleton.mp h) b

/-! Commands with no check, and the loads. -/

/-- Settles O17. -/
theorem nopChainLoadAndAbortAlwaysSucceed : Obligations.NopChainLoadAndAbortAlwaysSucceed := by
  intro s hp
  refine ⟨?_, ?_, ?_⟩
  · exact issue_ok nofun hp rfl (by simp)
  · exact issue_ok nofun hp rfl (by simp)
  · exact issue_ok nofun hp rfl (by simp)

/-- Settles O18. -/
theorem keyLoadExpandsTheKey : Obligations.KeyLoadExpandsTheKey := by
  intro s len hp hm
  exact issue_ok nofun hp (requireMstate_of_eq hm _) (by simp)

/-- Settles O19. -/
theorem ivLoadTakesSixteenBytesOnly : Obligations.IvLoadTakesSixteenBytesOnly := by
  intro s hp hm
  refine ⟨?_, fun len hlen => ?_⟩
  · exact issue_ok nofun hp (requireMstate_of_eq hm _) (by simp)
  · exact issue_err nofun hp ((requireMstate_of_eq hm _).trans (if_pos hlen)) (by simp)

/-! The message commands. -/

theorem startBody_ready {s : State} (m : MState) (hm : s.mstate = .idle) (hk : s.keyValid = true)
    (hv : s.ivValid = true) :
    startBody m s = okResult 0 [.chain s.iv, .mstate m, .mpad s.padAlways, .mmds s.ctrlUseMds] := by
  rw [startBody, requireMstate_of_eq hm, requireKey_of_valid hk, requireIv_of_valid hv]

/-- Settles O20. -/
theorem startBeginsTheMessageFromTheIv : Obligations.StartBeginsTheMessageFromTheIv := by
  intro s hp hm hk hv
  refine ⟨?_, ?_⟩
  · exact issue_ok nofun hp (startBody_ready .enc hm hk hv) (by simp)
  · exact issue_ok nofun hp (startBody_ready .dec hm hk hv) (by simp)

/-- Settles O21. -/
theorem encBlockEncryptsAndChains : Obligations.EncBlockEncryptsAndChains := by
  intro s hp hm
  exact issue_ok nofun hp (requireMstate_of_eq hm _) (by simp)

/-- `ENC_FINAL` of a chunk that padding makes a block of, in an encryption (R230). -/
theorem bodyEncFinal_padded {s : State} {len : Nat} {b : Block} (hm : s.mstate = .enc) (hlen : len ≤ 16)
    (hfull : ¬ (s.mpad = true ∧ len = 16)) (hpad : pad s.din len s.mpad = some b) :
    bodyEncFinal len s = okResult 16
      [.dout (encBlock s.cipher s.mmds b s.chain), .chain (encBlock s.cipher s.mmds b s.chain), .mstate .idle,
        .mpad false, .mmds false] := by
  rw [bodyEncFinal, encFinalLenOk, decide_eq_true hlen, requireRange_of_ok, requireMstate_of_eq hm, if_neg hfull]
  simp only [hpad]
  rfl

/-- `ENC_FINAL` of an empty chunk that padding makes no block of, in an encryption (R230). -/
theorem bodyEncFinal_noBlock {s : State} {len : Nat} (hm : s.mstate = .enc) (hlen : len ≤ 16)
    (hfull : ¬ (s.mpad = true ∧ len = 16)) (hpad : pad s.din len s.mpad = none) :
    bodyEncFinal len s = okResult 0 endWrites := by
  rw [bodyEncFinal, encFinalLenOk, decide_eq_true hlen, requireRange_of_ok, requireMstate_of_eq hm, if_neg hfull]
  simp only [hpad]

/-- Settles O22. -/
theorem encFinalPadsEncryptsAndEnds : Obligations.EncFinalPadsEncryptsAndEnds := by
  intro s len hp hm hlen hfull
  refine ⟨fun b hb => ?_, fun hb => ?_⟩
  · exact issue_ok nofun hp (bodyEncFinal_padded hm hlen hfull hb) (by simp)
  · exact issue_ok nofun hp (bodyEncFinal_noBlock hm hlen hfull hb) (by simp)

/-- Settles O23. -/
theorem decBlockDecryptsAndChainsTheCiphertext : Obligations.DecBlockDecryptsAndChainsTheCiphertext := by
  intro s hp hm
  exact issue_ok nofun hp (requireMstate_of_eq hm _) (by simp)

/-- The length that padding keeps is what its last byte leaves of sixteen (R225). -/
theorem unpadLen_eq_some_iff {p : Block} {n : Fin 17} :
    unpadLen p = some n ↔ 1 ≤ p[15].toNat ∧ p[15].toNat + n.val = 16 := by
  unfold unpadLen
  split
  · next h => rw [Option.some.injEq, Fin.ext_iff]; dsimp only; omega
  · next h => simp only [reduceCtorEq, false_iff]; omega

theorem unpadLen_eq_none_iff {p : Block} : unpadLen p = none ↔ p[15].toNat = 0 ∨ 17 ≤ p[15].toNat := by
  unfold unpadLen
  split
  · next h => simp only [reduceCtorEq, false_iff]; omega
  · next h => simp only [true_iff]; omega

/-- `DEC_FINAL` of any length but 16 in a decryption (R233). -/
theorem bodyDecFinal_badLength {s : State} {len : Nat} (hm : s.mstate = .dec) (hlen : len ≠ 16) :
    bodyDecFinal len s = errResult .invalidCiphertext endWrites := by
  rw [bodyDecFinal, requireMstate_of_eq hm, if_pos hlen]

/-- `DEC_FINAL 16` in a decryption, where the decrypted block is padded (R234). -/
theorem bodyDecFinal_padded {s : State} {n : Fin 17} (hm : s.mstate = .dec)
    (hpad : unpadLen (decBlock s.cipher s.mmds s.din s.chain) = some n) :
    bodyDecFinal 16 s = okResult n
      [.dout (keepBytes (decBlock s.cipher s.mmds s.din s.chain) n.val), .chain s.din, .mstate .idle, .mpad false,
        .mmds false] := by
  rw [bodyDecFinal, requireMstate_of_eq hm, if_neg (by decide)]
  simp only [hpad]
  rfl

/-- `DEC_FINAL 16` in a decryption, where the decrypted block is not padded (R234). -/
theorem bodyDecFinal_notPadded {s : State} (hm : s.mstate = .dec)
    (hpad : unpadLen (decBlock s.cipher s.mmds s.din s.chain) = none) :
    bodyDecFinal 16 s = errResult .paddingAmbiguity endWrites := by
  rw [bodyDecFinal, requireMstate_of_eq hm, if_neg (by decide)]
  simp only [hpad]

/-- Settles O24. -/
theorem decFinalStripsThePadAndEnds : Obligations.DecFinalStripsThePadAndEnds := by
  intro s n hp hm p hlo hhi
  have hpad : unpadLen (decBlock s.cipher s.mmds s.din s.chain) = some n := unpadLen_eq_some_iff.mpr ⟨hlo, hhi⟩
  exact issue_ok nofun hp (bodyDecFinal_padded hm hpad) (by simp)

/-- Settles O25. -/
theorem decFinalDataErrorsEndTheMessage : Obligations.DecFinalDataErrorsEndTheMessage := by
  rintro s len c hp hm (⟨hlen, rfl⟩ | ⟨rfl, rfl, hlast⟩)
  · exact issue_err nofun hp (bodyDecFinal_badLength hm hlen) (by simp)
  · have hpad : unpadLen (decBlock s.cipher s.mmds s.din s.chain) = none := unpadLen_eq_none_iff.mpr hlast
    exact issue_err nofun hp (bodyDecFinal_notPadded hm hpad) (by simp)

/-! The commands of the datapath and of the diffusion unit. -/

theorem bodyWhiten_inRange {s : State} {idx : Nat} (h : idx ≤ 24) :
    bodyWhiten idx s = requireKey s (okResult 16 [.dout (whiten s.sk idx s.din)]) := by
  rw [bodyWhiten, whitenIdxOk, decide_eq_true h, requireRange_of_ok]

theorem bodyFfunc_inRange {s : State} {idx : Nat} (h : idx ≤ 39) :
    bodyFfunc idx s = requireKey s (okResult 16 [.dout (ffuncBlock s.cipher idx s.din)]) := by
  rw [bodyFfunc, ffuncIdxOk, decide_eq_true h, requireRange_of_ok]

/-- Settles O26. -/
theorem whitenAndFfuncGiveTheirBlocks : Obligations.WhitenAndFfuncGiveTheirBlocks := by
  intro s idx hp hk
  refine ⟨fun hidx => ?_, fun hidx => ?_⟩
  · exact issue_ok nofun hp ((bodyWhiten_inRange hidx).trans (requireKey_of_valid hk _)) (by simp)
  · exact issue_ok nofun hp ((bodyFfunc_inRange hidx).trans (requireKey_of_valid hk _)) (by simp)

/-- Settles O27. -/
theorem feistelCommandsGiveTheRounds : Obligations.FeistelCommandsGiveTheRounds := by
  intro s hp hk
  refine ⟨?_, ?_⟩
  · exact issue_ok nofun hp (requireKey_of_valid hk _) (by simp)
  · exact issue_ok nofun hp (requireKey_of_valid hk _) (by simp)

/-- Byte `i` of column `c` of the matrix product of each column (R175). -/
theorem byteAt_mdsColumns (m : MdsMatrix) (v : Block) (c i : Fin 4) :
    byteAt (mdsColumns m v) (4 * c.val + i.val) = (mdsVector m (column v c.val))[i] := by
  rw [byteAt_of_lt _ (by omega), mdsColumns, Vector.getElem_ofFn]
  dsimp only
  rw [show (4 * c.val + i.val) / 4 = c.val by omega, show (4 * c.val + i.val) % 4 = i.val by omega,
    byteAt_of_lt _ i.isLt]
  rfl

/-- Settles O28. -/
theorem diffusionCommandsGiveTheProducts : Obligations.DiffusionCommandsGiveTheProducts := by
  intro s hp hmds
  refine ⟨?_, mdsColumns s.params.mdsM s.din, byteAt_mdsColumns _ _, ?_⟩
  · exact issue_ok nofun hp (requireMdsUnit_of_present hmds _) (by simp)
  · exact issue_ok nofun hp (requireMdsUnit_of_present hmds _) (by simp)

/-! The errors of the checks. -/

/-- A body that a check refuses is issued with no writes. -/
theorem exec_refused {i : Instr} {s : State} {c : CmdError} (hi : i ≠ .reset) (hp : s.pending = none)
    (hbody : instrBody s i = errResult c []) :
    exec i s = .next { s with pending := some ⟨.err c, []⟩, done := false } :=
  (issue_err hi hp hbody rfl).1

/-- Settles O29. -/
theorem diffusionCommandsAreIllegalWithoutTheUnit : Obligations.DiffusionCommandsAreIllegalWithoutTheUnit := by
  intro s hp hmds
  refine ⟨?_, ?_⟩
  · exact exec_refused nofun hp (requireMdsUnit_of_absent hmds _)
  · exact exec_refused nofun hp (requireMdsUnit_of_absent hmds _)

theorem bodyEncFinal_outOfRange {s : State} {len : Nat} (h : 17 ≤ len) :
    bodyEncFinal len s = errResult .badOperand [] := by
  rw [bodyEncFinal, encFinalLenOk, decide_eq_false (by omega), requireRange_of_not_ok]

/-- A full chunk in mode `ALWAYS` (R230). -/
theorem bodyEncFinal_fullAlways {s : State} (hm : s.mstate = .enc) (hpad : s.mpad = true) :
    bodyEncFinal 16 s = errResult .badOperand [] := by
  rw [bodyEncFinal, encFinalLenOk, decide_eq_true (Nat.le_refl 16), requireRange_of_ok, requireMstate_of_eq hm,
    if_pos ⟨hpad, rfl⟩]

theorem bodyWhiten_outOfRange {s : State} {idx : Nat} (h : 25 ≤ idx) :
    bodyWhiten idx s = errResult .badOperand [] := by
  rw [bodyWhiten, whitenIdxOk, decide_eq_false (by omega), requireRange_of_not_ok]

theorem bodyFfunc_outOfRange {s : State} {idx : Nat} (h : 40 ≤ idx) :
    bodyFfunc idx s = errResult .badOperand [] := by
  rw [bodyFfunc, ffuncIdxOk, decide_eq_false (by omega), requireRange_of_not_ok]

/-- Settles O30. -/
theorem operandOutOfRangeGivesBadOperand : Obligations.OperandOutOfRangeGivesBadOperand := by
  intro s n hp
  refine ⟨fun h => ?_, fun h => ?_, fun h => ?_, fun hm hpad => ?_⟩
  · exact exec_refused nofun hp (bodyEncFinal_outOfRange h)
  · exact exec_refused nofun hp (bodyWhiten_outOfRange h)
  · exact exec_refused nofun hp (bodyFfunc_outOfRange h)
  · exact exec_refused nofun hp (bodyEncFinal_fullAlways hm hpad)

theorem bodyEncFinal_badSequence {s : State} {len : Nat} (hm : s.mstate ≠ .enc) (hlen : len ≤ 16) :
    bodyEncFinal len s = errResult .badSequence [] := by
  rw [bodyEncFinal, encFinalLenOk, decide_eq_true hlen, requireRange_of_ok, requireMstate_of_ne hm]

/-- Settles O31. -/
theorem wrongMessageStateGivesBadSequence : Obligations.WrongMessageStateGivesBadSequence := by
  intro s len hp
  refine ⟨fun hm => ⟨?_, ?_, ?_, ?_⟩, fun hm => ⟨?_, fun hlen => ?_⟩, fun hm => ⟨?_, ?_⟩⟩
  case refine_6 => exact exec_refused nofun hp (bodyEncFinal_badSequence hm hlen)
  all_goals exact exec_refused nofun hp (requireMstate_of_ne hm _)

theorem startBody_notReady {s : State} (m : MState) (hm : s.mstate = .idle)
    (h : s.keyValid = false ∨ s.ivValid = false) : startBody m s = errResult .notReady [] := by
  rw [startBody, requireMstate_of_eq hm]
  cases hk : s.keyValid with
  | false => rw [requireKey_of_invalid hk]
  | true =>
    have hv : s.ivValid = false := h.resolve_left (by simp [hk])
    rw [requireKey_of_valid hk, requireIv_of_invalid hv]

/-- Settles O32. -/
theorem missingKeyOrIvGivesNotReady : Obligations.MissingKeyOrIvGivesNotReady := by
  intro s idx hp
  refine ⟨fun hm h => ⟨?_, ?_⟩, fun hk => ⟨fun hidx => ?_, fun hidx => ?_, ?_, ?_⟩⟩
  · exact exec_refused nofun hp (startBody_notReady .enc hm h)
  · exact exec_refused nofun hp (startBody_notReady .dec hm h)
  · exact exec_refused nofun hp ((bodyWhiten_inRange hidx).trans (requireKey_of_invalid hk _))
  · exact exec_refused nofun hp ((bodyFfunc_inRange hidx).trans (requireKey_of_invalid hk _))
  · exact exec_refused nofun hp (requireKey_of_invalid hk _)
  · exact exec_refused nofun hp (requireKey_of_invalid hk _)

end Sys2Proof.Machine
end

section
/-! PROOFS. What reset leaves (`spec/10_state.md` R60; `spec/70_reset_and_hazards.md` R340, R342), what changes `KEY`
(`spec/10_state.md` R34), and the completion interrupt (`spec/60_exceptions.md` R310). -/

namespace Sys2Proof.Machine

/-! Reset. -/

/-- Settles O14. -/
theorem resetStateHasTheSpecValues : Obligations.ResetStateHasTheSpecValues :=
  ⟨rfl, rfl, rfl, rfl, rfl, rfl, rfl, rfl, rfl⟩

/-- `CTRL` after reset reads `PADMODE = 1` and 0 elsewhere, with the unit and without (R60). -/
theorem ctrlWord_performReset (s : State) : s.performReset.ctrlWord = 0x00000002#32 := by
  have hmds : s.performReset.ctrlUseMds = false := Bool.and_false _
  rw [State.ctrlWord, hmds, State.performReset_diag, State.performReset_padAlways, State.performReset_irqEn]
  rfl

/-- `STATUS` has no field that reset keeps. -/
theorem statusWord_performReset (s : State) : s.performReset.statusWord = State.reset.statusWord := rfl

/-- Settles O15. -/
theorem resetCommandAndInputGiveResetValues : Obligations.ResetCommandAndInputGiveResetValues := by
  refine fun s => ⟨⟨s.performReset, exec_reset s, rfl, rfl, rfl, rfl, rfl, ctrlWord_performReset s,
    statusWord_performReset s, rfl, rfl, rfl, rfl, rfl, rfl⟩, fun rest => ?_⟩
  rw [step_input (s := { s with inputs := .rstN :: rest }) rfl]
  rfl

/-- What a register holds depends neither on the inputs nor on what the host has read (R362). -/
theorem windowValue_host_side (s : State) (r : WindowReg) (l : List Input) (log : List Word) (k : Nat) :
    State.windowValue { s with inputs := l, readLog := log, draws := k } r = s.windowValue r := by
  cases r <;> rfl

/-- Reset and a write to `CTRL` leave a free core, which shows what it holds. -/
theorem readValue_writeCtrl_performReset (s : State) (v : Word) (r : WindowReg) :
    (s.performReset.writeCtrl v).readValue r = (s.performReset.writeCtrl v).windowValue r :=
  readValue_free rfl r

/-- What the registers hold after reset is the same for the same constants. -/
theorem windowValue_writeCtrl_performReset {s t : State} (h : s.params = t.params) (v : Word) (r : WindowReg) :
    (s.performReset.writeCtrl v).windowValue r = (t.performReset.writeCtrl v).windowValue r := by
  have hstate : s.performReset.writeCtrl v =
      { t.performReset.writeCtrl v with inputs := s.inputs, readLog := s.readLog, draws := s.draws } := by
    simp only [State.writeCtrl, State.performReset, h]
  rw [hstate, windowValue_host_side]

theorem blockWord_zeroBlock (n : Fin 4) : blockWord zeroBlock n = 0#32 := by
  revert n
  decide

/-- Settles O16: after reset the key is zero and `KEY_VALID` is 0. -/
theorem resetLeavesNothingOfTheKeyToRead : Obligations.ResetLeavesNothingOfTheKeyToRead := by
  intro s t s' t' r v hparams hs ht
  rw [exec_reset] at hs ht
  cases hs
  cases ht
  simp only [readValue_writeCtrl_performReset]
  refine ⟨windowValue_writeCtrl_performReset hparams v r, fun n => ?_, fun i => ?_, fun w => ?_⟩
  · have hkey : (s.performReset.writeCtrl v).key = zeroBlock := rfl
    rw [State.windowValue, hkey, blockWord_zeroBlock, ite_self]
  · have hkv : (s.performReset.writeCtrl v).keyValid = false := rfl
    rw [State.windowValue, hkv, Bool.and_false, if_neg Bool.false_ne_true]
  · have hkv : (s.performReset.writeCtrl v).keyValid = false := rfl
    rw [State.windowValue, hkv, Bool.and_false, if_neg Bool.false_ne_true]

/-! What changes `KEY`. -/

/-- A write list leaves `KEY`, or writes what `KEY` then holds. -/
theorem applyWrites_key_cases (s : State) (l : List RegWrite) :
    (s.applyWrites l).key = s.key ∨ RegWrite.key (s.applyWrites l).key ∈ l := by
  induction l generalizing s with
  | nil => exact .inl rfl
  | cons x l ih =>
    rw [State.applyWrites_cons]
    rcases ih (s.applyWrite x) with h | h
    · cases x with
      | key b =>
        rw [h]
        exact .inr List.mem_cons_self
      | dout _ | iv _ | chain _ | sbox _ | sk _ | keyValid _ | ivValid _ | mstate _ | mpad _ | mmds _ => exact .inl h
    · exact .inr (List.mem_cons_of_mem x h)

@[simp] theorem State.finish_key (s : State) (o : CmdOutcome) : (s.finish o).key = s.key := by
  cases o <;> rfl

/-- The core's turn leaves `KEY`, or performs a write of it that was in flight. -/
theorem complete_key_cases (s : State) :
    s.complete.key = s.key ∨ ∃ p, s.pending = some p ∧ RegWrite.key s.complete.key ∈ p.writes := by
  cases hp : s.pending with
  | none => exact .inl (by rw [State.complete_free hp])
  | some p =>
    rw [State.complete_inFlight hp, State.finish_key]
    exact (applyWrites_key_cases s p.writes).imp_right fun h => ⟨p, rfl, h⟩

theorem writeWindow_key (s : State) (r : WindowReg) (v : Word) : (s.writeWindow r v).key = s.key := by
  rcases writeWindow_cases s r v with ⟨-, h⟩ | ⟨-, h⟩ | ⟨n, -, h⟩ | h <;> rw [h] <;> rfl

/-- A word written to `CMD` leaves `KEY`, but for the `RESET` word. -/
theorem writeCmd_key_cases {w : Word} {s t : State} (h : writeCmd w s = .next t) :
    t.key = s.key ∨ (w = 0x00000001#32 ∧ t = s.performReset) := by
  by_cases hw : w = 0x00000001#32
  · subst hw
    rw [writeCmd_resetWord] at h
    cases h
    exact .inr ⟨rfl, rfl⟩
  · obtain ⟨p, hsubmit⟩ := exists_writeCmd_eq_submit hw s
    rw [hsubmit] at h
    rcases submit_cases h with ⟨-, rfl⟩ | ⟨-, rfl⟩ <;> exact .inl rfl

/-- Of the records that commands issue, only that of a `KEY_LOAD` with no message active writes `KEY`. -/
theorem CommandRecord.keyLoad_of_key_mem {s : State} {i : Instr} {p : Pending} {k : Block} (h : CommandRecord s i p)
    (hk : RegWrite.key k ∈ p.writes) : (∃ len, i = .keyLoad len) ∧ s.mstate = .idle := by
  cases h with
  | keyLoad len _ hm => exact ⟨⟨len, rfl⟩, hm⟩
  | refused | ivLoad | ivLength | start => simp [okResult, errResult] at hk
  | data _ n l hl => exact (hl _ hk).elim
  | ending _ o l hl =>
    rcases List.mem_append.mp hk with hk | hk
    · exact (hl _ hk).elim
    · simp [endWrites] at hk

/-- Settles O53: a step changes `KEY` as the core's turn or as reset, and a write of it is in flight only after a
`KEY_LOAD`. -/
theorem onlyKeyLoadAndResetWriteTheKey : Obligations.OnlyKeyLoadAndResetWriteTheKey := by
  refine ⟨fun s t h hne => ?_, fun i s t p k hp hexec ht hk => ?_⟩
  · rcases step_cases h with ⟨-, rfl⟩ | ⟨rest, u, rfl, ⟨-, rfl⟩ | ⟨hi, rfl⟩ | ⟨a, -, -, rfl⟩ | ⟨a, v, -, -, -, rfl⟩ |
      ⟨w, hi, hw⟩⟩
    · exact .inl ((complete_key_cases s).resolve_left hne)
    · exact .inl ((complete_key_cases { s with inputs := rest }).resolve_left hne)
    · exact .inr ⟨rfl, .inl ⟨rest, hi⟩⟩
    · exact absurd rfl hne
    · exact absurd (writeWindow_key _ _ v) hne
    · obtain ⟨rfl, rfl⟩ := (writeCmd_key_cases hw).resolve_left hne
      exact .inr ⟨rfl, .inr ⟨rest, hi⟩⟩
  · rcases exec_cases hexec with ⟨-, rfl⟩ | ⟨-, -, rfl⟩ | ⟨-, hbusy, -⟩
    · cases ht
    · cases ht
      exact (commandRecord_instrBody s i).keyLoad_of_key_mem hk
    · exact absurd hp hbusy

/-! The completion interrupt. -/

@[simp] theorem State.complete_irqEn (s : State) : s.complete.irqEn = s.irqEn := by
  cases hp : s.pending with
  | none => rw [State.complete_free hp]
  | some p => rw [State.complete_inFlight hp]; cases p.outcome <;> simp

theorem State.complete_done {s : State} (h : s.pending ≠ none) : s.complete.done = true := by
  obtain ⟨p, hp⟩ := Option.ne_none_iff_exists'.mp h
  rw [State.complete_inFlight hp]
  cases p.outcome <;> rfl

/-- Settles O60: `DONE` is set by a completion, cleared by an issue, and left by a dropped word. -/
theorem completionInterrupt : Obligations.CompletionInterrupt := by
  refine fun s => ⟨rfl, fun hbusy hen => ?_, fun v hv => ?_, fun i u hp hexec => ?_, fun u hexec => ?_,
    fun i u hi hbusy hexec => ?_⟩
  · rw [State.irq, State.complete_irqEn, State.complete_done hbusy, hen, Bool.and_true]
  · rw [State.irq, State.writeStatus_done, hv, Bool.not_true, Bool.and_false, Bool.and_false]
  · rcases exec_cases hexec with ⟨-, rfl⟩ | ⟨-, -, rfl⟩ | ⟨-, hbusy, -⟩
    · rfl
    · rw [State.irq, State.issued_done, Bool.and_false]
    · exact absurd hp hbusy
  · rw [exec_reset] at hexec
    cases hexec
    rfl
  · rw [exec_busy hi hbusy] at hexec
    cases hexec
    rfl

end Sys2Proof.Machine
end

section
/-! PROOFS. The functions of the datapath: whitening, the round function, one round (`spec/43_datapath.md` R190, R191,
R195). -/

namespace Sys2Proof.Machine

/-- Settles O37: sixteen subkeys from the offset on are in the file. -/
theorem whiteningIsAnElementwiseInvolution : Obligations.WhiteningIsAnElementwiseInvolution := by
  refine fun sk off b hoff => ⟨fun k hk => ?_, whiten_whiten sk off b⟩
  have hin : off + k < 40 := by omega
  exact ⟨hin, by rw [getElem_whiten, subkeyAt_of_lt sk hin]⟩

theorem roundF_of_zero {c : CipherTables} (h : c.mode = .zero) (r : Byte) (w : Word) :
    roundF c r w = r ^^^ w.setWidth 8 := by
  have hterm : sboxTerm c r w = 0#8 := by rw [sboxTerm, h]
  rw [roundF, hterm, BitVec.xor_zero]

/-- On the tables of a key the operand cancels, and what is left is one byte of the key (R191). -/
theorem roundF_of_lookup {c : CipherTables} {key : Block} (h : c.mode = .lookup) (hs : c.sbox = generateSBoxes key)
    (r : Byte) (w : Word) :
    roundF c r w = key[(w.toNat % 4 + r.toNat) % 16]'(Nat.mod_lt _ (by decide)) ^^^ w.setWidth 8 := by
  have hterm : sboxTerm c r w = sboxAt c.sbox (Fin.ofNat 4 w.toNat) r := by rw [sboxTerm, h]
  rw [roundF, hterm, hs, sboxAt_generateSBoxes, ← BitVec.xor_assoc, BitVec.xor_self, BitVec.zero_xor]
  rfl

/-- Settles O38. -/
theorem roundFunctionSimplified : Obligations.RoundFunctionSimplified := fun _ _ r w hs =>
  ⟨fun h => roundF_of_lookup h hs r w, fun h => roundF_of_zero h r w⟩

/-- Settles O41. -/
theorem roundAndInverseRoundCancel : Obligations.RoundAndInverseRoundCancel := fun c m r x =>
  ⟨rfl, rfl, decRound_encRound c m r x, encRound_decRound c m r x⟩

/-! The rounds in mode `ZERO` without diffusion (R201). Four states of the halves of which the first two differ as the
last two do keep doing so: the form of affinity that an induction on the rounds goes through with. -/

/-- The halves `a` and `b` differ as `d` and `e` do. -/
def HalfDiffEq (a b d e : Half) : Prop := xorHalf a b = xorHalf d e

theorem halfDiffEq_iff {a b d e : Half} :
    HalfDiffEq a b d e ↔ ∀ (k : Nat) (h : k < 8), a[k] ^^^ b[k] = d[k] ^^^ e[k] := by
  rw [HalfDiffEq, Vector.ext_iff]
  simp only [getElem_xorHalf]

theorem HalfDiffEq.xorHalf {a b d e a' b' d' e' : Half} (h : HalfDiffEq a b d e) (h' : HalfDiffEq a' b' d' e') :
    HalfDiffEq (xorHalf a a') (xorHalf b b') (xorHalf d d') (xorHalf e e') := by
  rw [halfDiffEq_iff] at *
  intro k hk
  simp only [getElem_xorHalf]
  calc a[k] ^^^ a'[k] ^^^ (b[k] ^^^ b'[k])
    _ = (a[k] ^^^ b[k]) ^^^ (a'[k] ^^^ b'[k]) := by ac_rfl
    _ = (d[k] ^^^ e[k]) ^^^ (d'[k] ^^^ e'[k]) := by rw [h k hk, h' k hk]
    _ = d[k] ^^^ d'[k] ^^^ (e[k] ^^^ e'[k]) := by ac_rfl

theorem getElem_roundG_zero {c : CipherTables} (hz : c.mode = .zero) (h : Half) (w : Word) (k : Nat) (hk : k < 8) :
    (roundG c h w false)[k] = h[k] ^^^ w.setWidth 8 := by
  simp [roundG, roundF_of_zero hz]

/-- The subkey is added to all four states alike. -/
theorem HalfDiffEq.roundG {c : CipherTables} (hz : c.mode = .zero) (w : Word) {a b d e : Half}
    (h : HalfDiffEq a b d e) :
    HalfDiffEq (roundG c a w false) (roundG c b w false) (roundG c d w false) (roundG c e w false) := by
  rw [halfDiffEq_iff] at *
  intro k hk
  simp only [getElem_roundG_zero hz]
  calc a[k] ^^^ w.setWidth 8 ^^^ (b[k] ^^^ w.setWidth 8)
    _ = (a[k] ^^^ b[k]) ^^^ (w.setWidth 8 ^^^ w.setWidth 8) := by ac_rfl
    _ = (d[k] ^^^ e[k]) ^^^ (w.setWidth 8 ^^^ w.setWidth 8) := by rw [h k hk]
    _ = d[k] ^^^ w.setWidth 8 ^^^ (e[k] ^^^ w.setWidth 8) := by ac_rfl

theorem halfDiffEq_encRoundsTo {c : CipherTables} (hz : c.mode = .zero) (n : Nat) {x y u v : Half × Half}
    (hl : HalfDiffEq x.1 y.1 u.1 v.1) (hr : HalfDiffEq x.2 y.2 u.2 v.2) :
    HalfDiffEq (encRoundsTo c false n x).1 (encRoundsTo c false n y).1 (encRoundsTo c false n u).1
      (encRoundsTo c false n v).1 ∧
    HalfDiffEq (encRoundsTo c false n x).2 (encRoundsTo c false n y).2 (encRoundsTo c false n u).2
      (encRoundsTo c false n v).2 := by
  induction n with
  | zero => exact ⟨hl, hr⟩
  | succ n ih =>
    obtain ⟨ihl, ihr⟩ := ih
    exact ⟨ihr, ihl.xorHalf (ihr.roundG hz (subkeyAt c.sk n))⟩

/-! The halves of blocks. -/

theorem leftHalf_xorBlock (a b : Block) : leftHalf (xorBlock a b) = xorHalf (leftHalf a) (leftHalf b) := by
  ext k h
  simp

theorem rightHalf_xorBlock (a b : Block) : rightHalf (xorBlock a b) = xorHalf (rightHalf a) (rightHalf b) := by
  ext k h
  simp

theorem eq_of_halves_eq {a b : Block} (hl : leftHalf a = leftHalf b) (hr : rightHalf a = rightHalf b) : a = b := by
  rw [← joinHalves_halves a, hl, hr, joinHalves_halves]

/-- Blocks that differ alike go through the rounds alike. -/
theorem xorBlock_encRounds_eq {c : CipherTables} (hz : c.mode = .zero) {p q r s : Block}
    (h : xorBlock p q = xorBlock r s) :
    xorBlock (encRounds c false p) (encRounds c false q) = xorBlock (encRounds c false r) (encRounds c false s) := by
  have hl : HalfDiffEq (leftHalf p) (leftHalf q) (leftHalf r) (leftHalf s) := by
    rw [HalfDiffEq, ← leftHalf_xorBlock, h, leftHalf_xorBlock]
  have hr : HalfDiffEq (rightHalf p) (rightHalf q) (rightHalf r) (rightHalf s) := by
    rw [HalfDiffEq, ← rightHalf_xorBlock, h, rightHalf_xorBlock]
  obtain ⟨hl', hr'⟩ := halfDiffEq_encRoundsTo hz Config.rounds (x := (leftHalf p, rightHalf p))
    (y := (leftHalf q, rightHalf q)) (u := (leftHalf r, rightHalf r)) (v := (leftHalf s, rightHalf s)) hl hr
  simp only [← halves_encRounds] at hl' hr'
  refine eq_of_halves_eq ?_ ?_
  · rw [leftHalf_xorBlock, leftHalf_xorBlock]
    exact hl'
  · rw [rightHalf_xorBlock, rightHalf_xorBlock]
    exact hr'

theorem xorBlock_zeroBlock (a : Block) : xorBlock a zeroBlock = a := by
  ext k h
  simp

/-- Settles O43: `a xor b` and the zero block differ as `a` and `b` do. -/
theorem zeroModeRoundsAreAffine : Obligations.ZeroModeRoundsAreAffine := fun _ _ _ hz =>
  xorBlock_encRounds_eq hz (xorBlock_zeroBlock _)

end Sys2Proof.Machine
end

section
/-! PROOFS. The multiplier and the matrix product (`spec/42_diffusion.md` R170–R173). -/

namespace Sys2Proof.Machine

/-! The multiplication is linear in each argument: the loop is, whatever its accumulator. -/

/-- A sum that is added where a bit is set, and the bit is itself a sum. -/
theorem ite_xor_right (t u : Bool) (p q a : Byte) :
    (if (t ^^ u) then (p ^^^ q) ^^^ a else p ^^^ q) =
      (if t then p ^^^ a else p) ^^^ (if u then q ^^^ a else q) := by
  cases t <;> cases u
  case false.false => rfl
  case false.true => exact BitVec.xor_assoc p q a
  case true.false => exact (BitVec.xor_assoc p q a).trans ((congrArg _ (BitVec.xor_comm q a)).trans
    (BitVec.xor_assoc p a q).symm)
  case true.true =>
    calc p ^^^ q
      _ = p ^^^ q ^^^ (a ^^^ a) := by rw [BitVec.xor_self, BitVec.xor_zero]
      _ = p ^^^ a ^^^ (q ^^^ a) := by ac_rfl

/-- One addition of the loop, where both the multiplicands and the accumulators are added. -/
theorem ite_xor_left (t : Bool) (p q a b : Byte) :
    (if t then (p ^^^ q) ^^^ (a ^^^ b) else p ^^^ q) =
      (if t then p ^^^ a else p) ^^^ (if t then q ^^^ b else q) := by
  cases t
  · rfl
  · simp only [if_true]
    ac_rfl

theorem xtime_xor (a b : Byte) : xtime (a ^^^ b) = xtime a ^^^ xtime b := by
  rw [xtime, BitVec.getLsbD_xor, BitVec.shiftLeft_xor_distrib, ite_xor_right]
  rfl

theorem gfMulLoop_xor_left (t : Nat) (p q a b c : Byte) :
    gfMulLoop t (p ^^^ q) (a ^^^ b) c = gfMulLoop t p a c ^^^ gfMulLoop t q b c := by
  induction t generalizing p q a b c with
  | zero => rfl
  | succ t ih => rw [gfMulLoop, gfMulLoop, gfMulLoop, ite_xor_left, xtime_xor, ih]

theorem gfMulLoop_xor_right (t : Nat) (p q a b c : Byte) :
    gfMulLoop t (p ^^^ q) a (b ^^^ c) = gfMulLoop t p a b ^^^ gfMulLoop t q a c := by
  induction t generalizing p q a b c with
  | zero => rfl
  | succ t ih =>
    rw [gfMulLoop, gfMulLoop, gfMulLoop, BitVec.getLsbD_xor, ite_xor_right, BitVec.ushiftRight_xor_distrib, ih]

theorem gfMul_xor_left (a b c : Byte) : gfMul (a ^^^ b) c = gfMul a c ^^^ gfMul b c :=
  gfMulLoop_xor_left 8 0#8 0#8 a b c

theorem gfMul_xor_right (a b c : Byte) : gfMul a (b ^^^ c) = gfMul a b ^^^ gfMul a c :=
  gfMulLoop_xor_right 8 0#8 0#8 a b c

/-! A property of bytes that passes to sums holds of all bytes if it holds of the eight powers of `x`. -/

/-- A byte is the sum of the powers of `x` at its bits. -/
theorem eq_foldr_bits (a : Byte) :
    a = (List.finRange 8).foldr (fun i b => (if a.getLsbD i.val then 1#8 <<< i.val else 0#8) ^^^ b) 0#8 := by
  revert a
  decide +kernel

theorem byte_induction {P : Byte → Prop} (zero : P 0#8) (power : ∀ i : Fin 8, P (1#8 <<< i.val))
    (add : ∀ a b, P a → P b → P (a ^^^ b)) (a : Byte) : P a := by
  rw [eq_foldr_bits a]
  generalize List.finRange 8 = l
  induction l with
  | nil => exact zero
  | cons i l ih =>
    rw [List.foldr_cons]
    refine add _ _ ?_ ih
    split
    · exact power i
    · exact zero

@[simp] theorem gfMul_zero_right (a : Byte) : gfMul a 0#8 = 0#8 := by
  have h := gfMul_xor_right a 0#8 0#8
  rwa [BitVec.xor_self, BitVec.xor_self] at h

@[simp] theorem gfMul_zero_left (a : Byte) : gfMul 0#8 a = 0#8 := by
  have h := gfMul_xor_left 0#8 0#8 a
  rwa [BitVec.xor_self, BitVec.xor_self] at h

/-- One is the power of `x` at bit 0. -/
theorem gfMul_one_right (a : Byte) : gfMul a 1#8 = a := by
  induction a using byte_induction with
  | zero => rfl
  | power i => revert i; decide
  | add a b ha hb => rw [gfMul_xor_left, ha, hb]

theorem gfMul_comm (a b : Byte) : gfMul a b = gfMul b a := by
  induction a using byte_induction with
  | zero => rw [gfMul_zero_left, gfMul_zero_right]
  | add a a' h h' => rw [gfMul_xor_left, gfMul_xor_right, h, h']
  | power i =>
    induction b using byte_induction with
    | zero => rw [gfMul_zero_left, gfMul_zero_right]
    | add b b' h h' => rw [gfMul_xor_left, gfMul_xor_right, h, h']
    | power j =>
      revert i j
      decide +kernel

/-- On the powers of `x`: 512 products. -/
theorem gfMul_assoc_powers : ∀ i j k : Fin 8, gfMul (gfMul (1#8 <<< i.val) (1#8 <<< j.val)) (1#8 <<< k.val) =
    gfMul (1#8 <<< i.val) (gfMul (1#8 <<< j.val) (1#8 <<< k.val)) := by
  decide +kernel

theorem gfMul_assoc (a b c : Byte) : gfMul (gfMul a b) c = gfMul a (gfMul b c) := by
  induction a using byte_induction with
  | zero => simp only [gfMul_zero_left]
  | add a a' h h' => simp only [gfMul_xor_left, h, h']
  | power i =>
    induction b using byte_induction with
    | zero => simp only [gfMul_zero_left, gfMul_zero_right]
    | add b b' h h' => simp only [gfMul_xor_left, gfMul_xor_right, h, h']
    | power j =>
      induction c using byte_induction with
      | zero => simp only [gfMul_zero_right]
      | add c c' h h' => simp only [gfMul_xor_right, h, h']
      | power k => exact gfMul_assoc_powers i j k

/-- Settles O39: each law is linear in its arguments, so it need only hold on the powers of `x`. -/
theorem gfMulLaws : Obligations.GfMulLaws := fun a b c =>
  ⟨gfMul_zero_right a, gfMul_one_right a, gfMul_comm a b, gfMul_xor_right a b c, gfMul_assoc a b c⟩

/-- Settles O40: each of the four products of an entry is linear. -/
theorem mdsIsLinear : Obligations.MdsIsLinear := by
  intro m v w i hi
  simp only [getElem_mdsVector _ _ i hi, Vector.getElem_ofFn, gfMul_xor_right]
  ac_rfl

end Sys2Proof.Machine
end

section
/-! PROOFS. Padding, and what a message, its last chunk and a suspended message come back as (`spec/44_cbc.md` R223,
R224, R226, R236, R237). -/

namespace Sys2Proof.Machine

/-! Padding (R224). -/

theorem pad_full (t : Block) (always : Bool) : pad t 16 always = some t := if_pos rfl

theorem pad_empty_reference (t : Block) : pad t 0 false = none := rfl

/-- The block of a chunk of `n` bytes: the bytes, and then bytes that count what is missing. -/
def paddedBlock (t : Block) (n : Nat) : Block :=
  Vector.ofFn fun k => if k.val < n then t[k] else BitVec.ofNat 8 (16 - n)

theorem pad_partial (t : Block) {n : Nat} {always : Bool} (h : n < 16) (hne : n ≠ 0 ∨ always = true) :
    pad t n always = some (paddedBlock t n) := by
  have hnone : ¬ (n = 0 ∧ always = false) := by
    rintro ⟨h0, ha⟩
    exact hne.elim (· h0) (by simp [ha])
  rw [pad, if_neg h.ne, if_neg hnone, paddedBlock]

theorem getElem_paddedBlock (t : Block) (n k : Nat) (hk : k < 16) :
    (paddedBlock t n)[k] = if k < n then t[k] else BitVec.ofNat 8 (16 - n) := by
  simp [paddedBlock]

theorem getElem_paddedBlock_of_lt (t : Block) {n k : Nat} (hk : k < 16) (h : k < n) : (paddedBlock t n)[k] = t[k] := by
  rw [getElem_paddedBlock, if_pos h]

/-- The count of missing bytes fits a byte. -/
theorem toNat_paddedBlock_of_le (t : Block) {n k : Nat} (hk : k < 16) (h : n ≤ k) :
    (paddedBlock t n)[k].toNat = 16 - n := by
  rw [getElem_paddedBlock, if_neg (by omega), BitVec.toNat_ofNat, Nat.mod_eq_of_lt (by omega)]

/-- Settles O46. -/
theorem paddedBlockBytes : Obligations.PaddedBlockBytes := by
  refine fun t n always _ => ⟨?_, ?_, fun hn hne => ⟨_, pad_partial t hn hne, fun k hk => ⟨?_, ?_⟩⟩⟩
  · rintro rfl
    exact pad_full t always
  · rintro rfl rfl
    exact pad_empty_reference t
  · exact getElem_paddedBlock_of_lt t hk
  · exact toNat_paddedBlock_of_le t hk

/-! The final commands, from the issue to the result. -/

/-- What `ENC_FINAL` leaves in `DOUT` where padding makes the block `b` of the chunk. -/
theorem dout_complete_encFinal {s u : State} {n : Nat} {b : Block} (hp : s.pending = none) (hm : s.mstate = .enc)
    (hn : n ≤ 16) (hfull : ¬ (s.mpad = true ∧ n = 16)) (hpad : pad s.din n s.mpad = some b)
    (hexec : exec (.encFinal n) s = .next u) : u.complete.dout = encBlock s.cipher s.mmds b s.chain := by
  obtain ⟨hissue, hdone⟩ := (encFinalPadsEncryptsAndEnds s n hp hm hn hfull).1 b hpad
  rw [hexec] at hissue
  injection hissue with hu
  rw [hu, hdone]

/-- What `DEC_FINAL 16` leaves where the decrypted block `b` ends in a count of missing bytes. -/
theorem complete_decFinal_padded {t v : State} {b : Block} {n : Fin 17} (hp : t.pending = none) (hm : t.mstate = .dec)
    (hb : decBlock t.cipher t.mmds t.din t.chain = b) (hlo : 1 ≤ b[15].toNat) (hhi : b[15].toNat + n.val = 16)
    (hexec : exec (.decFinal 16) t = .next v) :
    v.complete.errcode = none ∧ v.complete.outlen = n ∧
      ∀ (k : Nat) (_ : k < 16), v.complete.dout[k] = if k < n.val then b[k] else 0#8 := by
  subst hb
  obtain ⟨hissue, hdone⟩ := decFinalStripsThePadAndEnds t n hp hm hlo hhi
  rw [hexec] at hissue
  injection hissue with hv
  rw [hv, hdone]
  exact ⟨rfl, rfl, fun k hk => Vector.getElem_ofFn hk⟩

/-- What `DEC_FINAL 16` leaves where the decrypted block `b` does not. -/
theorem complete_decFinal_ambiguous {t v : State} {b : Block} (hp : t.pending = none) (hm : t.mstate = .dec)
    (hb : decBlock t.cipher t.mmds t.din t.chain = b) (hlast : b[15].toNat = 0 ∨ 17 ≤ b[15].toNat)
    (hexec : exec (.decFinal 16) t = .next v) :
    v.complete.errcode = some .paddingAmbiguity ∧ v.complete.outlen = 0 ∧ v.complete.dout = zeroBlock := by
  subst hb
  obtain ⟨hissue, hdone⟩ :=
    decFinalDataErrorsEndTheMessage t 16 .paddingAmbiguity hp hm (.inr ⟨rfl, rfl, hlast⟩)
  rw [hexec] at hissue
  injection hissue with hv
  rw [hv, hdone]
  exact ⟨rfl, rfl, rfl⟩

/-- Settles O47: the decryption sees the padded block, and reads off its last byte how much of it is the chunk. -/
theorem finalChunkRoundTrip : Obligations.FinalChunkRoundTrip := by
  intro s t u v n hps hms hu hpt hmt hcipher hmmds hchain hdin hv
  have decrypted {b : Block} (hn : n ≤ 16) (hfull : ¬ (s.mpad = true ∧ n = 16)) (hpad : pad s.din n s.mpad = some b) :
      decBlock t.cipher t.mmds t.din t.chain = b := by
    rw [hcipher, hmmds, hchain, hdin, dout_complete_encFinal hps hms hn hfull hpad hu, decBlock_encBlock]
  refine ⟨fun hn hne => ?_, fun hn hmpad q hq => ⟨fun hlo hhi => ?_, fun hlast => ?_⟩⟩
  · have hlast : (paddedBlock s.din n)[15].toNat = 16 - n := toNat_paddedBlock_of_le s.din (by decide) hn
    have hblock := decrypted (by omega) (by omega) (pad_partial s.din (by omega) hne)
    obtain ⟨herr, hlen, hdout⟩ := complete_decFinal_padded (n := ⟨n, by omega⟩) hpt hmt hblock (by omega)
      (by dsimp only; omega) hv
    refine ⟨herr, congrArg Fin.val hlen, fun k hk => ?_⟩
    rw [hdout k hk]
    exact ite_congr rfl (getElem_paddedBlock_of_lt s.din hk) fun _ => rfl
  · have hblock := decrypted (by omega) (by simp [hmpad]) (hn ▸ pad_full s.din s.mpad)
    obtain ⟨herr, hlen, hdout⟩ := complete_decFinal_padded (n := ⟨16 - q, by omega⟩) hpt hmt hblock (by omega)
      (by dsimp only; omega) hv
    exact ⟨herr, congrArg Fin.val hlen, hdout⟩
  · have hblock := decrypted (by omega) (by simp [hmpad]) (hn ▸ pad_full s.din s.mpad)
    exact complete_decFinal_ambiguous hpt hmt hblock (by omega) hv

/-- Settles O48: both directions leave the ciphertext in the chain. -/
theorem messageBlockRoundTrip : Obligations.MessageBlockRoundTrip := by
  intro s t u v hps hms hu hpt hmt hcipher hmmds hchain hdin hv
  obtain ⟨hissue, hdone⟩ := encBlockEncryptsAndChains s hps hms
  rw [hu] at hissue
  injection hissue with hu'
  rw [← hu'] at hdone
  obtain ⟨hissue', hdone'⟩ := decBlockDecryptsAndChainsTheCiphertext t hpt hmt
  rw [hv] at hissue'
  injection hissue' with hv'
  rw [← hv', hcipher, hmmds, hchain, hdin] at hdone'
  rw [hdone', hdone]
  exact ⟨decBlock_encBlock _ _ _ _, rfl, rfl, rfl⟩

/-! A suspended message (R237). -/

/-- The start command of a kind of message. -/
def MState.StartedBy (m : MState) (start : Instr) : Prop :=
  (m = .enc ∧ start = .encStart) ∨ (m = .dec ∧ start = .decStart)

theorem complete_abort {s a : State} (h : exec .abort s = .next a) (hp : s.pending = none) :
    a.complete = { s with
      mstate := .idle, mpad := false, mmds := false, errcode := none, outlen := 0, done := true } := by
  obtain ⟨hissue, hdone⟩ := (nopChainLoadAndAbortAlwaysSucceed s hp).2.2
  rw [h] at hissue
  injection hissue with ha
  rw [ha, hdone]

theorem complete_chainLoad {s c : State} (h : exec .chainLoad s = .next c) (hp : s.pending = none) :
    c.complete = { s with chain := s.din, errcode := none, outlen := 0, done := true } := by
  obtain ⟨hissue, hdone⟩ := (nopChainLoadAndAbortAlwaysSucceed s hp).2.1
  rw [h] at hissue
  injection hissue with hc
  rw [hc, hdone]

theorem complete_start {s b : State} {m : MState} {start : Instr} (h : exec start s = .next b)
    (hstart : m.StartedBy start) (hp : s.pending = none) (hm : s.mstate = .idle) (hk : s.keyValid = true)
    (hv : s.ivValid = true) :
    b.complete = { s with
      chain := s.iv, mstate := m, mpad := s.padAlways, mmds := s.ctrlUseMds, errcode := none, outlen := 0,
      done := true } := by
  obtain ⟨⟨henc, hencDone⟩, hdec, hdecDone⟩ := startBeginsTheMessageFromTheIv s hp hm hk hv
  rcases hstart with ⟨rfl, rfl⟩ | ⟨rfl, rfl⟩
  · rw [h] at henc
    injection henc with hb
    rw [hb, hencDone]
  · rw [h] at hdec
    injection hdec with hb
    rw [hb, hdecDone]

/-- The latched diffusion switch is one that `CTRL.USE_MDS` can take. -/
theorem State.Settled.hasMds_and_mmds {s : State} (hs : s.Settled) : (s.params.hasMds && s.mmds) = s.mmds := by
  cases hu : s.params.hasMds with
  | true => exact Bool.true_and _
  | false => rw [(hs.unit hu).2, Bool.false_and]

/-- Settles O49: an active message has its key and its IV, and what the start command latches is what was saved. -/
theorem savedContextIsRestored : Obligations.SavedContextIsRestored := by
  intro s a b c d start hs hp hstart ha hb hc hd
  have hactive : s.mstate ≠ .idle := by
    rcases hstart with ⟨hm, -⟩ | ⟨hm, -⟩ <;> simp [hm]
  obtain ⟨hk, hv⟩ := hs.settled.message hactive
  rw [complete_abort ha hp] at hb
  rw [complete_start hb hstart hp rfl hk hv] at hc
  rw [hd, complete_chainLoad hc hp, State.ctrlUseMds]
  simp only [hs.settled.hasMds_and_mmds]

end Sys2Proof.Machine
end

section
/-! PROOFS. What the host reads and writes through the window (`spec/10_state.md` R32, R40, R44;
`spec/20_memory.md` R71, R77–R85; `spec/40_command_cycle.md` R136). -/

namespace Sys2Proof.Machine

/-! The address of a register (R71). -/

/-- The map undoes the addresses. -/
theorem decodeAddr_of_addr {r : WindowReg} {a : BitVec 12} (h : r.addr = some a) : decodeAddr a = r := by
  cases r with
  | cap | ctrl | status | cmd =>
    cases h
    rfl
  | din n | dout n | iv n | chain n | key n | mdsm n =>
    cases h
    revert n
    decide
  | subkey i =>
    cases h
    revert i
    decide
  | sbox w =>
    cases h
    revert w
    decide +kernel
  | reserved => cases h

theorem ofNat_eq_of_toNat {a : BitVec 12} {n : Nat} (h : a.toNat = n) : BitVec.ofNat 12 n = a := by
  rw [← h, BitVec.ofNat_toNat, BitVec.setWidth_eq]

/-! The words of a block register (R11, R85). -/

theorem lane_blockWord (b : Block) (n m : Fin 4) : lane (blockWord b n) m.val = byteAt b (4 * n.val + m.val) := by
  rw [blockWord, lane_wordOfBytes]
  fin_cases m <;> rfl

theorem byteAt_setBlockWord (b : Block) (n n' : Fin 4) (v : Word) {m : Nat} (hm : m < 4) :
    byteAt (setBlockWord b n v) (4 * n'.val + m) = if n' = n then lane v m else byteAt b (4 * n'.val + m) := by
  have hk : 4 * n'.val + m < 16 := by omega
  rw [byteAt_of_lt _ hk, byteAt_of_lt _ hk, getElem_setBlockWord, show (4 * n'.val + m) / 4 = n'.val by omega,
    show (4 * n'.val + m) % 4 = m by omega]
  simp only [Fin.ext_iff]

/-- A word that was written reads back. -/
theorem blockWord_setBlockWord_same (b : Block) (n : Fin 4) (v : Word) : blockWord (setBlockWord b n v) n = v :=
  calc blockWord (setBlockWord b n v) n
    _ = wordOfBytes (lane v 0) (lane v 1) (lane v 2) (lane v 3) := by
      have hbyte {m : Nat} (hm : m < 4) : byteAt (setBlockWord b n v) (4 * n.val + m) = lane v m := by
        rw [byteAt_setBlockWord b n n v hm, if_pos rfl]
      rw [blockWord, hbyte (by decide), hbyte (by decide), hbyte (by decide), ← hbyte (m := 0) (by decide)]
      rfl
    _ = v := wordOfBytes_lanes v

theorem blockWord_setBlockWord_of_ne (b : Block) {n n' : Fin 4} (h : n' ≠ n) (v : Word) :
    blockWord (setBlockWord b n v) n' = blockWord b n' := by
  have hbyte {m : Nat} (hm : m < 4) : byteAt (setBlockWord b n v) (4 * n'.val + m) = byteAt b (4 * n'.val + m) := by
    rw [byteAt_setBlockWord b n n' v hm, if_neg h]
  have hbyte0 : byteAt (setBlockWord b n v) (4 * n'.val) = byteAt b (4 * n'.val) := hbyte (m := 0) (by decide)
  rw [blockWord, blockWord, hbyte0, hbyte (by decide), hbyte (by decide), hbyte (by decide)]

/-! Writes of the host. -/

/-- A write to the address of a register other than `CMD`. -/
theorem step_write_register {s : State} {r : WindowReg} {a : BitVec 12} {v : Word} {rest : List Input}
    (hr : r.addr = some a) (hb : badAccess a 4 = false) (hcmd : r ≠ .cmd) (hi : s.inputs = .write a 4 v :: rest) :
    step s = .next (State.writeWindow { s with inputs := rest } r v) := by
  rw [step_input hi, takeInput, memWrite, hb, if_neg Bool.false_ne_true, decodeAddr_of_addr hr, if_neg hcmd]

@[simp] theorem readValue_din (s : State) (n : Fin 4) : s.readValue (.din n) = blockWord s.din n :=
  readValue_of_unwritten s nofun fun _ => id

@[simp] theorem readValue_ctrl (s : State) : s.readValue .ctrl = s.ctrlWord :=
  readValue_of_unwritten s nofun fun _ => id

/-- Settles O55. -/
theorem operandWordWriteReplacesFourBytes : Obligations.OperandWordWriteReplacesFourBytes := by
  intro s t n v rest hi h
  have hb : ∀ n : Fin 4, badAccess (BitVec.ofNat 12 (0x010 + 4 * n.val)) 4 = false := by decide
  rw [step_write_register (r := .din n) rfl (hb n) nofun hi] at h
  cases h
  refine ⟨rfl, fun k hk => ?_, ?_, fun n' hne => ?_⟩
  · rw [← lane_eq_ofNat]
    exact getElem_setBlockWord s.din n v k hk
  · rw [readValue_din]
    exact blockWord_setBlockWord_same s.din n v
  · rw [readValue_din, readValue_din]
    exact blockWord_setBlockWord_of_ne s.din hne v

/-- `CTRL` reads back what was written to its fields (R40). -/
theorem ctrlWord_writeCtrl (s : State) (v : Word) :
    (s.writeCtrl v).ctrlWord = v &&& if s.params.hasMds then 0x0000000F#32 else 0x0000000B#32 := by
  have hmask : ∀ (m : Bool) (j : Fin 32), (if m then 0x0000000F#32 else 0x0000000B#32).getLsbD j.val =
      (decide (j.val < 4) && (m || decide (j.val ≠ 2))) := by decide
  refine BitVec.eq_of_getLsbD_eq fun i hi => ?_
  rw [State.getLsbD_ctrlWord _ i hi, BitVec.getLsbD_and, hmask _ ⟨i, hi⟩]
  obtain rfl | rfl | rfl | rfl | hrsv : i = 0 ∨ i = 1 ∨ i = 2 ∨ i = 3 ∨ 4 ≤ i := by omega
  · simp
  · simp
  · simp [State.ctrlUseMds, Bool.and_comm]
  · simp
  · simp [show i ≠ 0 ∧ i ≠ 1 ∧ i ≠ 2 ∧ i ≠ 3 ∧ ¬ i < 4 by omega]

/-- Settles O56. -/
theorem controlAndStatusWrites : Obligations.ControlAndStatusWrites := by
  intro s t v rest h
  refine ⟨fun hi => ?_, fun hi => ?_⟩
  · rw [step_write_register (r := .ctrl) rfl (by decide) nofun hi] at h
    cases h
    refine ⟨rfl, ?_⟩
    rw [readValue_ctrl]
    exact ctrlWord_writeCtrl s v
  · rw [step_write_register (r := .status) rfl (by decide) nofun hi] at h
    cases h
    rfl

end Sys2Proof.Machine
end

section
/-! PROOFS. Reads of a free and of a busy core (`spec/10_state.md` R40, R44; `spec/20_memory.md` R71–R85;
`spec/40_command_cycle.md` R136). -/

namespace Sys2Proof.Machine

/-! The fields of `STATUS` and `CTRL` in their words (R40, R44). -/

@[simp] theorem getLsbD_bit (v : Bool) : (bit v).getLsbD 0 = v := by
  cases v <;> rfl

/-- The reserved bits of `STATUS` are 0, whatever its fields are. -/
theorem packStatus_and_reserved (mmds mpad : BitVec 1) (outlen : BitVec 5) (errcode : BitVec 4) (mstate : BitVec 2)
    (ivValid keyValid ovf done busy : BitVec 1) :
    packStatus mmds mpad outlen errcode mstate ivValid keyValid ovf done busy &&& 0xFF80F080#32 = 0#32 := by
  have hmask : ∀ j : Fin 32, (0xFF80F080#32).getLsbD j.val =
      decide (j.val = 7 ∨ (12 ≤ j.val ∧ j.val < 16) ∨ 23 ≤ j.val) := by decide
  refine BitVec.eq_of_getLsbD_eq fun i hi => ?_
  rw [BitVec.getLsbD_and, hmask ⟨i, hi⟩, BitVec.getLsbD_zero]
  by_cases hrsv : i = 7 ∨ (12 ≤ i ∧ i < 16) ∨ 23 ≤ i
  · rw [getLsbD_packStatus _ _ _ _ _ _ _ _ _ _ i hi]
    obtain rfl | ⟨hlo, hhi⟩ | hhigh := hrsv
    · rfl
    · iterate 8 rw [if_neg (by omega)]
      rw [if_pos hhi, Bool.false_and]
    · iterate 12 rw [if_neg (by omega)]
      rw [Bool.false_and]
  · rw [decide_eq_false hrsv, Bool.and_false]

/-- A field of a word, by its bits. -/
theorem extractLsb'_eq_of_getLsbD {w : Word} {start len : Nat} {f : BitVec len}
    (h : ∀ i < len, w.getLsbD (start + i) = f.getLsbD i) : w.extractLsb' start len = f := by
  refine BitVec.eq_of_getLsbD_eq fun i hi => ?_
  rw [BitVec.getLsbD_extractLsb', decide_eq_true hi, Bool.true_and, h i hi]

section Fields
variable (mmds mpad : BitVec 1) (outlen : BitVec 5) (errcode : BitVec 4) (mstate : BitVec 2)
  (ivValid keyValid ovf done busy : BitVec 1)

theorem packStatus_mstate :
    (packStatus mmds mpad outlen errcode mstate ivValid keyValid ovf done busy).extractLsb' 5 2 = mstate := by
  refine extractLsb'_eq_of_getLsbD fun i hi => ?_
  rw [getLsbD_packStatus _ _ _ _ _ _ _ _ _ _ (5 + i) (by omega)]
  iterate 5 rw [if_neg (by omega)]
  rw [if_pos (by omega), Nat.add_sub_cancel_left]

theorem packStatus_errcode :
    (packStatus mmds mpad outlen errcode mstate ivValid keyValid ovf done busy).extractLsb' 8 4 = errcode := by
  refine extractLsb'_eq_of_getLsbD fun i hi => ?_
  rw [getLsbD_packStatus _ _ _ _ _ _ _ _ _ _ (8 + i) (by omega)]
  iterate 7 rw [if_neg (by omega)]
  rw [if_pos (by omega), Nat.add_sub_cancel_left]

theorem packStatus_outlen :
    (packStatus mmds mpad outlen errcode mstate ivValid keyValid ovf done busy).extractLsb' 16 5 = outlen := by
  refine extractLsb'_eq_of_getLsbD fun i hi => ?_
  rw [getLsbD_packStatus _ _ _ _ _ _ _ _ _ _ (16 + i) (by omega)]
  iterate 9 rw [if_neg (by omega)]
  rw [if_pos (by omega), Nat.add_sub_cancel_left]

end Fields

/-- A bit of `STATUS` as a core that is not busy shows it. -/
theorem State.getLsbD_statusWord (s : State) (i : Nat) (h : i < 32) :
    s.statusWord.getLsbD i =
      if i = 0 then s.busy else if i = 1 then s.done else if i = 2 then s.ovf else if i = 3 then s.keyValid
      else if i = 4 then s.ivValid else if i < 7 then (mstateBits s.mstate).getLsbD (i - 5) else if i = 7 then false
      else if i < 12 then (errcodeBits s.errcode).getLsbD (i - 8) else if i < 16 then false
      else if i < 21 then (BitVec.ofNat 5 s.outlen.val).getLsbD (i - 16) else if i = 21 then s.mpad
      else if i = 22 then s.mmds else false := by
  rw [State.statusWord, getLsbD_packStatus _ _ _ _ _ _ _ _ _ _ i h]
  simp only [getLsbD_bit]

theorem State.outlen_statusWord (s : State) : (s.statusWord.extractLsb' 16 5).toNat = s.outlen.val := by
  rw [State.statusWord, packStatus_outlen, BitVec.toNat_ofNat, Nat.mod_eq_of_lt (by omega)]

/-- The reserved bits of `CTRL` are 0. -/
theorem State.ctrlWord_and_reserved (s : State) : s.ctrlWord &&& 0xFFFFFFF0#32 = 0#32 := by
  have hmask : ∀ j : Fin 32, (0xFFFFFFF0#32).getLsbD j.val = decide (4 ≤ j.val) := by decide
  refine BitVec.eq_of_getLsbD_eq fun i hi => ?_
  rw [BitVec.getLsbD_and, hmask ⟨i, hi⟩, BitVec.getLsbD_zero, State.getLsbD_ctrlWord s i hi]
  by_cases hrsv : 4 ≤ i
  · iterate 4 rw [if_neg (by omega)]
    rw [Bool.false_and]
  · rw [decide_eq_false hrsv, Bool.and_false]

/-! The windows (R78–R82). -/

/-- Lane `m` of a word of the `SBOX` window (R80). -/
theorem lane_sboxWord (t : SBoxes) (w : Fin 256) (m : Fin 4) :
    lane (sboxWord t w) m.val =
      sboxAt t (Fin.ofNat 4 (w.val / 64)) (BitVec.ofNat 8 (4 * (w.val % 64) + m.val)) := by
  rw [sboxWord, lane_wordOfBytes]
  fin_cases m <;> rfl

section Gates
variable {s : State} (hp : s.pending = none)
include hp

theorem readValue_key_diagOff (hd : s.diag = false) (n : Fin 4) : s.readValue (.key n) = 0#32 := by
  rw [readValue_free hp, State.windowValue, hd, if_neg Bool.false_ne_true]

theorem readValue_key_diagOn (hd : s.diag = true) (n : Fin 4) : s.readValue (.key n) = blockWord s.key n := by
  rw [readValue_free hp, State.windowValue, if_pos hd]

theorem readValue_subkey_closed (hg : (s.diag && s.keyValid) = false) (i : Fin 40) :
    s.readValue (.subkey i) = 0#32 := by
  rw [readValue_free hp, State.windowValue, hg, if_neg Bool.false_ne_true]

theorem readValue_subkey_open (hg : (s.diag && s.keyValid) = true) (i : Fin 40) :
    s.readValue (.subkey i) = s.sk[i] := by
  rw [readValue_free hp, State.windowValue, if_pos hg]

theorem readValue_sbox_closed (hg : (s.diag && s.keyValid) = false) (w : Fin 256) : s.readValue (.sbox w) = 0#32 := by
  rw [readValue_free hp, State.windowValue, hg, if_neg Bool.false_ne_true]

theorem readValue_sbox_open (hg : (s.diag && s.keyValid) = true) (w : Fin 256) :
    s.readValue (.sbox w) = sboxWord s.sbox w := by
  rw [readValue_free hp, State.windowValue, if_pos hg]

/-- An aligned read of a free core records what the register holds, and takes no draw (R76). -/
theorem step_read_free {a : BitVec 12} {rest : List Input} (halign : a.toNat % 4 = 0)
    (hi : s.inputs = .read a 4 :: rest) :
    step s = .next { s with inputs := rest, readLog := s.readLog ++ [s.windowValue (decodeAddr a)] } := by
  have hfree : State.pending { s with inputs := rest } = none := hp
  rw [step_input hi, takeInput, memRead_ok (badAccess_of_aligned halign), hostRead_eq, readsDraw_free hfree,
    readValue_free hfree]
  rfl

end Gates

/-- What a read of a free core at an address of the register `r` answers. -/
theorem windowValue_decodeAddr {a : BitVec 12} {r : WindowReg} (hr : r.addr = some a) (s : State) :
    s.windowValue (decodeAddr a) = s.windowValue r := by
  rw [decodeAddr_of_addr hr]

/-- A word of a block register in the window, lane by lane. -/
theorem lane_windowValue_of_block {s : State} {a : BitVec 12} {r : WindowReg} {b : Block} {n : Fin 4}
    (hr : r.addr = some a) (hb : s.windowValue r = blockWord b n) (m : Fin 4) :
    lane (s.windowValue (decodeAddr a)) m.val = byteAt b (4 * n.val + m.val) := by
  rw [windowValue_decodeAddr hr, hb, lane_blockWord]

/-- Settles O57: the map finds the register of each address, and a free core shows what the register holds. -/
theorem keyWindowsAreGated : Obligations.KeyWindowsAreGated := by
  intro s hp
  refine ⟨fun hd => ⟨?_, ?_, ?_⟩, fun hk => ⟨?_, ?_⟩, fun hd n m => ?_, fun hd hk => ⟨?_, fun w m => ?_⟩,
    fun a rest halign hi => ⟨_, step_read_free hp halign hi, ?cap, ?ctrl, ?status, ?cmd, ?blocks, ?subkey, ?sbox⟩⟩
  · exact readValue_key_diagOff hp hd
  · exact readValue_subkey_closed hp (by rw [hd, Bool.false_and])
  · exact readValue_sbox_closed hp (by rw [hd, Bool.false_and])
  · exact readValue_subkey_closed hp (by rw [hk, Bool.and_false])
  · exact readValue_sbox_closed hp (by rw [hk, Bool.and_false])
  · rw [readValue_key_diagOn hp hd, lane_blockWord]
  · exact readValue_subkey_open hp (by rw [hd, hk, Bool.and_self])
  · rw [readValue_sbox_open hp (by rw [hd, hk, Bool.and_self]), lane_sboxWord]
  case cap =>
    rintro rfl
    rw [readValue_free hp, windowValue_decodeAddr (r := .cap) rfl]
  case ctrl =>
    rintro rfl
    rw [windowValue_decodeAddr (r := .ctrl) rfl, State.windowValue]
    exact ⟨s.getLsbD_ctrlWord 0 (by decide), s.getLsbD_ctrlWord 1 (by decide), s.getLsbD_ctrlWord 2 (by decide),
      s.getLsbD_ctrlWord 3 (by decide), s.ctrlWord_and_reserved⟩
  case status =>
    rintro rfl
    rw [windowValue_decodeAddr (r := .status) rfl, State.windowValue]
    refine ⟨?_, s.getLsbD_statusWord 1 (by decide), s.getLsbD_statusWord 2 (by decide),
      s.getLsbD_statusWord 3 (by decide), s.getLsbD_statusWord 4 (by decide), ?_, ?_, s.outlen_statusWord,
      s.getLsbD_statusWord 21 (by decide), s.getLsbD_statusWord 22 (by decide), packStatus_and_reserved ..⟩
    · exact (s.getLsbD_statusWord 0 (by decide)).trans (State.busy_of_pending_none hp)
    · rw [State.statusWord, packStatus_mstate]
      cases s.mstate <;> rfl
    · rw [State.statusWord, packStatus_errcode]
      cases s.errcode with
      | none => rfl
      | some c => cases c <;> rfl
  case cmd =>
    rintro rfl
    exact windowValue_decodeAddr (r := .cmd) rfl s
  case blocks =>
    intro n m
    refine ⟨fun h => ?_, fun h => ?_, fun h => ?_, fun h => ?_, fun h => ?_, fun h => ?_⟩
    · exact lane_windowValue_of_block (r := .din n) (congrArg some (ofNat_eq_of_toNat h)) rfl m
    · exact lane_windowValue_of_block (r := .dout n) (congrArg some (ofNat_eq_of_toNat h)) rfl m
    · exact lane_windowValue_of_block (r := .iv n) (congrArg some (ofNat_eq_of_toNat h)) rfl m
    · exact lane_windowValue_of_block (r := .chain n) (congrArg some (ofNat_eq_of_toNat h)) rfl m
    · rw [readValue_free hp, windowValue_decodeAddr (r := .key n) (congrArg some (ofNat_eq_of_toNat h))]
    · rw [readValue_free hp, windowValue_decodeAddr (r := .mdsm n) (congrArg some (ofNat_eq_of_toNat h))]
  case subkey =>
    intro i h
    rw [readValue_free hp, windowValue_decodeAddr (r := .subkey i) (congrArg some (ofNat_eq_of_toNat h))]
  case sbox =>
    intro w h
    rw [readValue_free hp, windowValue_decodeAddr (r := .sbox w) (congrArg some (ofNat_eq_of_toNat h))]

/-! A busy core (R136). -/

/-- A read that answers a next state was aligned, and is a host read of the register at its address. -/
theorem step_read_cases {s t : State} {a : BitVec 12} {rest : List Input} (hi : s.inputs = .read a 4 :: rest)
    (h : step s = .next t) :
    badAccess a 4 = false ∧ t = State.hostRead { s with inputs := rest } (decodeAddr a) := by
  rw [step_input hi, takeInput] at h
  cases hb : badAccess a 4 with
  | true =>
    rw [memRead_bad hb] at h
    cases h
  | false =>
    rw [memRead_ok hb] at h
    cases h
    exact ⟨rfl, rfl⟩

theorem readValue_of_draw {s : State} {r : WindowReg} (hr : r ≠ .status) (hd : s.readsDraw r = true) :
    s.readValue r = Config.draw s.draws := by
  unfold State.readValue
  rw [if_pos hd]
  cases r with
  | status => exact absurd rfl hr
  | _ => rfl

theorem readValue_of_not_draw {s : State} {r : WindowReg} (hd : ¬ s.readsDraw r = true) :
    s.readValue r = s.windowValue r := by
  unfold State.readValue
  rw [if_neg hd]

/-- What `STATUS` of a busy core shows: three bits that hold, and the reserved ones. -/
theorem readValue_status_busy {s : State} (h : s.pending ≠ none) :
    (s.readValue .status).getLsbD 0 = true ∧ (s.readValue .status).getLsbD 1 = false ∧
      (s.readValue .status).getLsbD 2 = s.ovf ∧ s.readValue .status &&& 0xFF80F080#32 = 0#32 := by
  rw [State.readValue, if_pos (readsDraw_status h), State.busyStatusWord]
  refine ⟨?_, ?_, ?_, packStatus_and_reserved ..⟩
  · exact getLsbD_packStatus _ _ _ _ _ _ _ _ _ _ 0 (by decide)
  · exact getLsbD_packStatus _ _ _ _ _ _ _ _ _ _ 1 (by decide)
  · exact (getLsbD_packStatus _ _ _ _ _ _ _ _ _ _ 2 (by decide)).trans (getLsbD_bit s.ovf)

/-- Settles O58: a read is a draw exactly where the record in flight writes the register. -/
theorem busyReadsAreDraws : Obligations.BusyReadsAreDraws := by
  intro s t p a rest hp hi h
  obtain ⟨hb, rfl⟩ := step_read_cases hi h
  have hbusy : State.pending { s with inputs := rest } ≠ none := by simp [hp]
  have hstatus : a ≠ 0x008#12 → decodeAddr a ≠ .status := fun hne hs => hne (eq_statusAddr_of_decodeAddr hb hs)
  refine ⟨rfl, _, rfl, ?_, fun hne hw => ?_, fun hne hw => ?_⟩
  · rintro rfl
    rw [decodeAddr_of_addr (r := .status) rfl, State.hostRead_draws, if_pos (readsDraw_status hbusy)]
    exact ⟨rfl, readValue_status_busy hbusy⟩
  · have hd := (readsDraw_iff (s := { s with inputs := rest }) hp (hstatus hne)).mpr hw
    rw [State.hostRead_draws, if_pos hd, readValue_of_draw (hstatus hne) hd]
    exact ⟨rfl, rfl⟩
  · have hd := mt (readsDraw_iff (s := { s with inputs := rest }) hp (hstatus hne)).mp hw
    rw [State.hostRead_draws, if_neg hd, readValue_of_not_draw hd]
    exact ⟨windowValue_host_side s _ rest s.readLog s.draws, rfl⟩

end Sys2Proof.Machine
end
